-- ==== Sys2Proof/Config.lean ====
section
/-! DEFINITION. The implementation parameters of rule R6 (`00_scope.md`) as one record, and the free values of the model.

Every parameter is a field of `Params`, which State carries and no step changes (log entry 1): a statement over every state
holds for every value of every parameter. What rule R6 calls OPEN, and every answer the environment gives (rule R5), is an
`opaque` constant where the state after reset needs one: nothing in Lean can compute it, so no proof rests on a value of it. -/

namespace Sys2Proof.Config

/-- The admitted widths of the counters and thresholds: 1 to 24 bits (rule R6). -/
abbrev CntWidth := { w : Nat // 1 ≤ w ∧ w ≤ 24 }

/-- The two admitted values of `RTC_BIT_ORDER` (rule R6). -/
inductive BitOrder where
  /-- Bit 7 crosses the data line first: the source's "MSB-sequenced". -/
  | msbFirst
  /-- Bit 0 crosses the data line first: the only other admitted value. -/
  | lsbFirst
  deriving DecidableEq, Repr

/-- The configuration record of rule R6. `LEN_W` and `CNT_MAX` follow from `CNT_W`. -/
structure Params where
  /-- `CNT_W`, the width in bits of the counters and thresholds. -/
  cntW : CntWidth
  /-- `DB_INIT_VALUE`, the reset value of `db.debounced_value`. -/
  dbInitValue : Bool
  /-- `DB_INIT_SAMPLES`, the reset value of `db.debounce_samples`. -/
  dbInitSamples : BitVec 24
  /-- `SW_INIT_THRESHOLD`, the reset value of `sw.threshold_samples`. -/
  swInitThreshold : BitVec 24
  /-- `DEBOUNCE_MS`, the debounce time used by the retune step, 0 to 1000. -/
  debounceMs : Fin 1001
  /-- `UNIT_MS`, the length of one duration unit used by the retune step, 0 to 1000. -/
  unitMs : Fin 1001
  /-- `CAL_PREV_RESET`, the reset value of `cal.prev_seconds`. -/
  calPrevReset : BitVec 8
  /-- `GLYPH_SEG`, the patterns of the glyph codes 0 to 21 in order (rule R73). -/
  glyphSeg : Vector (BitVec 7) 22
  /-- `SEG_ACTIVE_LEVEL`, the electrical level that means "asserted" on the segment lines. -/
  segActiveLevel : Bool
  /-- `DIG_ACTIVE_LEVEL`, the electrical level that means "asserted" on the digit-select lines. -/
  digActiveLevel : Bool
  /-- `RTC_BIT_ORDER`, the order in which the bits of a byte cross the RTC data line. -/
  rtcBitOrder : BitOrder
  /-- `rtc_force24`, a function of a byte, as the pairs (byte, result) where it is not `h & 0x7F`. Log entry 17. -/
  rtcForce24Except : List (BitVec 8 × BitVec 8)
  /-- `T_RTC`, the length of one `WAIT` event, in whatever unit of time. -/
  tRtc : Nat
  deriving DecidableEq, Repr

/-- `DB_INIT_SAMPLES` of the block the reset state describes, OPEN in rule R6. Log entry 2. -/
opaque dbInitSamples : BitVec 16

/-- `SW_INIT_THRESHOLD` of the block the reset state describes, OPEN in rule R6. Log entry 2. -/
opaque swInitThreshold : BitVec 16

/-- `DEBOUNCE_MS` of the block the reset state describes, OPEN in rule R6 within 0 to 1000. Log entry 3. -/
opaque debounceMs : Fin 1001

/-- `UNIT_MS` of the block the reset state describes, OPEN in rule R6 within 0 to 1000. Log entry 3. -/
opaque unitMs : Fin 1001

/-- `SEG_ACTIVE_LEVEL` of the block the reset state describes, OPEN in rule R6. Log entry 4. -/
opaque segActiveLevel : Bool

/-- `DIG_ACTIVE_LEVEL` of the block the reset state describes, OPEN in rule R6. Log entry 4. -/
opaque digActiveLevel : Bool

/-- `T_RTC` of the block the reset state describes, OPEN in rule R6. Log entry 5. -/
opaque tRtc : Nat

/-- FREE VALUE: the level of the button line at its n-th sample, where the environment's script gives none
(rules R5 and R28, `93_implementation_defined.md` U7). Log entry 6. -/
opaque btnLevel : Nat → Bool

/-- FREE VALUE: the level seen on `rtc_io_in` at its n-th sample, where the environment's script gives none
(rules R5 and R32, `93_implementation_defined.md` U6). Log entry 6. -/
opaque rtcLevel : Nat → Bool

/-- FREE VALUE: what the glyph table gives for a reserved code 22 to 31, for which rule R73's table has no pattern.
No operation stores such a code (rule R23); only a state that no run reaches holds one. Log entry 7. -/
opaque reservedGlyphSeg : BitVec 5 → BitVec 7

end Sys2Proof.Config
end

