-- ==== Sys2Proof/Word.lean ====
section
/-! DEFINITION. The word types of the block. Every quantity is unsigned (rule R7). -/

namespace Sys2Proof

/-- The 32-bit command word `cw[31:0]` and the 32-bit result `res[31:0]` (rule R34). -/
abbrev Word := BitVec 32

/-- One byte: an RTC register, a byte on the link, a time field. -/
abbrev Byte := BitVec 8

/-- A counter or threshold of `CNT_W` bits (rule R6), in the widest register rule R6 admits: every write leaves the bits from
`CNT_W` up at 0. Log entry 1. -/
abbrev Count := BitVec 24

/-- A press length of `LEN_W` = `CNT_W` + 1 bits (rule R19), in the widest register that admits. Log entry 1. -/
abbrev Length := BitVec 25

/-- A glyph code: 5 bits, 0 to 21 named and 22 to 31 reserved (rule R73). -/
abbrev GlyphCode := BitVec 5

end Sys2Proof
end

