-- ==== Sys2Proof/Machine/Params.lean ====
section
/-! DEFINITION. What follows from the configuration record, and the values rule R6 takes for it. -/

namespace Sys2Proof.Config

/-- `2^CNT_W`, the number of values of a counter (rule R8). -/
def Params.cntValues (p : Params) : Nat := 2 ^ p.cntW.val

/-- `CNT_MAX = 2^CNT_W - 1` (rule R6). -/
def Params.cntMax (p : Params) : Nat := p.cntValues - 1

/-- The record's two reset thresholds are values of `CNT_W` bits (rules R11 and R17). -/
def Params.admitted (p : Params) : Bool :=
  decide (p.dbInitSamples.toNat ≤ p.cntMax ∧ p.swInitThreshold.toNat ≤ p.cntMax)

/-- The patterns `gfedcba` of glyph codes 0 to 21 (rule R73): the numerals, MINUS, BLANK, b, E, L, M, n, o, P, r, S, t. -/
def glyphTable : Vector (BitVec 7) 22 :=
  #v[0x3F, 0x06, 0x5B, 0x4F, 0x66, 0x6D, 0x7D, 0x07, 0x7F, 0x6F,
     0x40, 0x00,
     0x7C, 0x79, 0x38, 0x37, 0x54, 0x5C, 0x73, 0x50, 0x6D, 0x78]

/-- The configuration of the block the reset state describes: for each parameter the value rule R6 takes, and for an OPEN one
the constant without a body (log entries 1 to 5 and 15 to 17). -/
def Params.taken : Params where
  cntW := ⟨16, by decide⟩
  dbInitValue := true
  dbInitSamples := Config.dbInitSamples.setWidth 24
  swInitThreshold := Config.swInitThreshold.setWidth 24
  debounceMs := Config.debounceMs
  unitMs := Config.unitMs
  calPrevReset := 0
  glyphSeg := glyphTable
  segActiveLevel := Config.segActiveLevel
  digActiveLevel := Config.digActiveLevel
  rtcBitOrder := .msbFirst
  rtcForce24Except := []
  tRtc := Config.tRtc

end Sys2Proof.Config
end

