-- ==== Sys2Proof/Syntax.lean ====
section
/-! DEFINITION. The operations of the block, one constructor per row of `spec/opcode_table.json`, and the words that name them.

The 33 operations of rule R76 are command words; the two rows of format `RTC_CMD8` are bytes on the RTC link (rule R71). -/

namespace Sys2Proof

/-- A display slot: one of the four digit positions, slot 0 the leftmost (rules R23 and R40). -/
inductive Slot where
  | s0 | s1 | s2 | s3
  deriving DecidableEq, Repr

/-- The units of rule R61, and `link` for the two rows of the table that are bytes on the RTC link (rule R71). -/
inductive UnitCode where
  | db | cal | sw | dp | rtc | link
  deriving DecidableEq, Repr

/-- The operations. An operand has the width its field has in the command word (rules R62 to R69), so an operand the
operation does not admit (rule R78) can be written: its meaning refuses it. -/
inductive Instr where
  /-- `DB_SAMPLE`, rule R101. -/
  | dbSample
  /-- `DB_GET`, rule R102. -/
  | dbGet
  /-- `DB_SET_SAMPLES n`, rule R103. -/
  | dbSetSamples (n : BitVec 24)
  /-- `CAL_CALIBRATE hours:minutes:seconds`, rule R121. -/
  | calCalibrate (hours minutes seconds : Byte)
  /-- `CAL_CALIBRATED`, rule R122. -/
  | calCalibrated
  /-- `CAL_CPS`, rule R123. -/
  | calCps
  /-- `CAL_LIT modulo`, rule R124. -/
  | calLit (modulo : Byte)
  /-- `CAL_RESET`, rule R125. -/
  | calReset
  /-- `SW_SAMPLE`, rule R141. -/
  | swSample
  /-- `SW_PUSH_LENGTH`, rule R142. -/
  | swPushLength
  /-- `SW_REPORT_CURRENT`, rule R143. -/
  | swReportCurrent
  /-- `SW_REPORT_LAST`, rule R144. -/
  | swReportLast
  /-- `SW_RESET_PRESS_STATE`, rule R145. -/
  | swResetPressState
  /-- `SW_SET_THRESHOLD n`, rule R146. -/
  | swSetThreshold (n : BitVec 24)
  /-- `DP_UPDATE`, rule R171. -/
  | dpUpdate
  /-- `DP_SET_DIGIT i, g`, rule R172. -/
  | dpSetDigit (i : Slot) (g : GlyphCode)
  /-- `DP_SET_DIGITS g0, g1, g2, g3`, rule R173. -/
  | dpSetDigits (g0 g1 g2 g3 : GlyphCode)
  /-- `DP_SET_DP i, b`, rule R174. -/
  | dpSetDp (i : Slot) (b : Bool)
  /-- `DP_SET_ALL_DPS b`, rule R175. -/
  | dpSetAllDps (b : Bool)
  /-- `DP_SET_DIGIT_ENABLED i, b`, rule R176. -/
  | dpSetDigitEnabled (i : Slot) (b : Bool)
  /-- `DP_SET_ALL_DIGITS_ENABLED b`, rule R177. -/
  | dpSetAllDigitsEnabled (b : Bool)
  /-- `DP_SET_ENABLED b`, rule R178. -/
  | dpSetEnabled (b : Bool)
  /-- `RTC_INIT`, rule R213. -/
  | rtcInit
  /-- `RTC_READ_REG bank:idx`, rule R208. -/
  | rtcReadReg (bank : Bool) (idx : BitVec 5)
  /-- `RTC_WRITE_REG bank:idx, data`, rule R209. -/
  | rtcWriteReg (bank : Bool) (idx : BitVec 5) (data : Byte)
  /-- `RTC_GET_SECONDS`, rule R210. -/
  | rtcGetSeconds
  /-- `RTC_GET_MINUTES`, rule R211. -/
  | rtcGetMinutes
  /-- `RTC_GET_HOURS`, rule R212. -/
  | rtcGetHours
  /-- `RTC_SET_SECONDS v`, rule R214. -/
  | rtcSetSeconds (v : Byte)
  /-- `RTC_SET_MINUTES v`, rule R215. -/
  | rtcSetMinutes (v : Byte)
  /-- `RTC_SET_HOURS v`, rule R216. -/
  | rtcSetHours (v : Byte)
  /-- `RTC_GET_TIME`, rule R217. -/
  | rtcGetTime
  /-- `RTC_SET_TIME hours:minutes:seconds`, rule R218. -/
  | rtcSetTime (hours minutes seconds : Byte)
  /-- `RTC_LINK_CMD_READ`: the command byte `1BAAAAA1` on the link, rules R71 and R206; no operation. Log entry 8. -/
  | rtcLinkCmdRead (bank : Bool) (idx : BitVec 5)
  /-- `RTC_LINK_CMD_WRITE`: the command byte `1BAAAAA0` on the link and the data byte that follows it, rules R71 and R205; no
  operation. Log entry 8. -/
  | rtcLinkCmdWrite (bank : Bool) (idx : BitVec 5) (data : Byte)
  deriving DecidableEq, Repr

/-- What names an instruction of the table: a command word, which a host can issue (rule R60), or the bytes that open a
transaction on the RTC link, which only an RTC operation sends (rules R43 and R71): the command byte, and the data byte a write
sends after it (0 where there is none). -/
inductive Code where
  | command (cw : Word)
  | link (cmd data : Byte)
  deriving DecidableEq, Repr

/-- Why a code names no instruction (rules R77 and R79). -/
inductive Reject where
  /-- `cw[31:28]` is 0 or 6 to 15. -/
  | reservedUnit (unit : BitVec 4)
  /-- The unit does not define the function `cw[27:24]`. -/
  | reservedFunction (unit fn : BitVec 4)
  /-- A defined opcode with a must-be-zero operand bit set. -/
  | mustBeZero (opcode : Byte)
  /-- A first link byte with bit 7 = 0, which is no command byte. -/
  | notALinkCommand (cmd : Byte)
  /-- A read command byte has no data byte of the block's after it. -/
  | dataAfterRead (cmd data : Byte)
  deriving DecidableEq, Repr

/-- The unit an instruction belongs to (rule R61). -/
def Instr.unit : Instr → UnitCode
  | .dbSample | .dbGet | .dbSetSamples _ => .db
  | .calCalibrate _ _ _ | .calCalibrated | .calCps | .calLit _ | .calReset => .cal
  | .swSample | .swPushLength | .swReportCurrent | .swReportLast | .swResetPressState | .swSetThreshold _ => .sw
  | .dpUpdate | .dpSetDigit _ _ | .dpSetDigits _ _ _ _ | .dpSetDp _ _ | .dpSetAllDps _ | .dpSetDigitEnabled _ _
  | .dpSetAllDigitsEnabled _ | .dpSetEnabled _ => .dp
  | .rtcInit | .rtcReadReg _ _ | .rtcWriteReg _ _ _ | .rtcGetSeconds | .rtcGetMinutes | .rtcGetHours
  | .rtcSetSeconds _ | .rtcSetMinutes _ | .rtcSetHours _ | .rtcGetTime | .rtcSetTime _ _ _ => .rtc
  | .rtcLinkCmdRead _ _ | .rtcLinkCmdWrite _ _ _ => .link

end Sys2Proof
end

