-- ==== Sys2Proof/Machine/State.lean ====
section
/-! DEFINITION. The state of the block, why a step can stop, and the state after reset.

Every register and registered output pin of rule R10 is here under its own unit's record. The fields `res` and `trace` are
what a model observes of the last operation (rule R5); `inputs`, `env` and `params` are the model's own: what the host has
handed over, what the environment answers, and the configuration the block was built with (log entries 1, 6 and 9). -/

namespace Sys2Proof.Machine

/-- Unit DB (rules R11 to R13). -/
structure Debouncer where
  /-- `db.debounce_samples`, the threshold (R11). -/
  debounceSamples : Count
  /-- `db.counter`, consecutive disagreeing samples (R12). -/
  counter : Count
  /-- `db.debounced_value`, the last accepted level; `true` is 1, not pressed (R13). -/
  debouncedValue : Bool
  deriving DecidableEq, Repr

/-- Unit CAL (rules R14 to R16). -/
structure Calibrator where
  /-- `cal.cycles_per_second`, 0 = uncalibrated (R14). -/
  cyclesPerSecond : Count
  /-- `cal.cycles`, calls since the last seconds change (R15). -/
  cycles : Count
  /-- `cal.prev_seconds`, the last seconds operand seen to differ (R16). -/
  prevSeconds : Byte
  deriving DecidableEq, Repr

/-- Unit SW (rules R17 to R20). -/
structure Classifier where
  /-- `sw.threshold_samples`, the length of one duration unit (R17). -/
  thresholdSamples : Count
  /-- `sw.counter`, elapsed samples of the press (R18). -/
  counter : Count
  /-- `sw.current_press_length`, read-once (R19). -/
  currentPressLength : Length
  /-- `sw.last_press_length`, read-once (R19). -/
  lastPressLength : Length
  /-- `sw.waiting_for_release` (R20). -/
  waitingForRelease : Bool
  deriving DecidableEq, Repr

/-- A register array over the four display slots (rule R40). -/
structure Slots (α : Type) where
  s0 : α
  s1 : α
  s2 : α
  s3 : α
  deriving DecidableEq, Repr

/-- Unit DP (rules R23 to R27). -/
structure Display where
  /-- `dp.digits[0..3]`, glyph codes (R23). -/
  digits : Slots GlyphCode
  /-- `dp.dps[0..3]`, decimal points (R24). -/
  dps : Slots Bool
  /-- `dp.digit_enabled[0..3]` (R25). -/
  digitEnabled : Slots Bool
  /-- `dp.cursor`, 3 bits, legal values 0 to 3 (R26). -/
  cursor : BitVec 3
  /-- `dp.enabled`, the master enable (R27). -/
  enabled : Bool
  deriving DecidableEq, Repr

/-- The display output pins, registered, 1 = asserted (rule R29). -/
structure DisplayPins where
  /-- `seg[6:0]`, bit 0 = segment a. -/
  seg : BitVec 7
  /-- `seg_dp`. -/
  segDp : Bool
  /-- `dig_sel[3:0]`, bit i selects slot i. -/
  digSel : BitVec 4
  deriving DecidableEq, Repr

/-- The RTC link's output pins, registered (rules R31 and R32). -/
structure LinkPins where
  /-- `rtc_ce`, chip-select. -/
  ce : Bool
  /-- `rtc_sclk`, the serial clock. -/
  sclk : Bool
  /-- `rtc_io_oe`: 1 = the block drives the data line. -/
  ioOe : Bool
  /-- `rtc_io_out`: the level the block drives. -/
  ioOut : Bool
  deriving DecidableEq, Repr

/-- One event on the RTC link (rule R74). -/
inductive PinEvent where
  /-- `CE(v)`: `rtc_ce <- v`. -/
  | ce (v : Bool)
  /-- `SCLK(v)`: `rtc_sclk <- v`. -/
  | sclk (v : Bool)
  /-- `OE(v)`: `rtc_io_oe <- v`. -/
  | oe (v : Bool)
  /-- `IO(v)`: `rtc_io_out <- v`. -/
  | io (v : Bool)
  /-- `SAMPLE -> v`: the block reads `rtc_io_in` and the environment answers `v`. -/
  | sample (v : Bool)
  /-- `WAIT`: the block lets the time `T_RTC` pass. -/
  | wait
  deriving DecidableEq, Repr

/-- What comes in from the host: a command word on the command port, or the reset input `rst` = 1 at a clock edge (rules R34 and
R280). A byte of the RTC link is no input: only an RTC operation sends one (rules R43 and R71). -/
inductive Input where
  | issue (cw : Word)
  | rst
  deriving DecidableEq, Repr

/-- The environment's answers (rule R5), the MODEL's own field: the level of the button line at its n-th sample is the n-th
entry of `btnScript`, and where the script has none it is free (`Config.btnLevel`); likewise for the RTC data line.
The counters say how many samples have been taken. Log entry 6. -/
structure Env where
  btnScript : List Bool
  btnDraws : Nat
  rtcScript : List Bool
  rtcDraws : Nat
  deriving DecidableEq, Repr

/-- The whole state. -/
structure State where
  /-- Unit DB, the debouncer. -/
  db : Debouncer
  /-- Unit CAL, the calibrator. -/
  cal : Calibrator
  /-- Unit SW, the press classifier. -/
  sw : Classifier
  /-- Unit DP, the display scanner. -/
  dp : Display
  /-- The display output pins. -/
  pins : DisplayPins
  /-- The RTC link's output pins. -/
  link : LinkPins
  /-- The result port `res[31:0]` (rule R34). -/
  res : Word
  /-- The pin events of the last operation, first event first (rule R74). -/
  trace : List PinEvent
  /-- What the host has handed over and the block has not yet taken, first in order (MODEL's own). -/
  inputs : List Input
  /-- The environment's answers (MODEL's own). -/
  env : Env
  /-- The configuration record of rule R6; no step changes it (MODEL's own). -/
  params : Config.Params
  deriving DecidableEq, Repr

/-- The model outcomes `fault F` of rule R251: the operation reached a point the source calls undefined or for which
arithmetic has no value. Stopping is safe: the hardware goes on with an unspecified value and state. Log entry 10. -/
inductive Fault where
  /-- F1 (rule R252), raised by `CAL_LIT` when `modulo` = 0 or `cps div modulo` = 0. Safe. -/
  | litDivideByZero (modulo : Byte) (cps : Count)
  /-- F2 (rule R253), raised by `SW_SAMPLE` and `SW_PUSH_LENGTH` when `push_length()` divides by a zero threshold. Safe. -/
  | pushLengthDivideByZero (counter : Count)
  deriving DecidableEq, Repr

/-- The model outcomes `refuse X` of rule R251: the word or an operand spells something to which the spec gives no meaning.
The hardware ignores the word. Safe: no claim is made about a run that holds one. Log entry 10. -/
inductive Refusal where
  /-- An instruction the model has no meaning for yet; no arm raises it. Safe. -/
  | notModelled (mnemonic : String)
  /-- X1 (rule R254), raised by the step for a command word that selects no operation. Safe. -/
  | reservedCommandWord (cw : Word)
  /-- X2 (rule R255), raised by the setters whose operand is out of range. Safe. -/
  | operandOutOfRange (cw : Word)
  /-- X3 (rule R256), raised by `DP_SET_DIGIT` and `DP_SET_DIGITS` for a glyph code 22 to 31. Safe. -/
  | reservedGlyph (cw : Word)
  deriving DecidableEq, Repr

/-- A block of configuration `p` right after reset: the table of rule R36. Nothing is handed over yet, nothing has been sampled,
and no answer of the environment is fixed. -/
def State.resetOf (p : Config.Params) : State where
  db := { debounceSamples := p.dbInitSamples, counter := 0, debouncedValue := p.dbInitValue }
  cal := { cyclesPerSecond := 0, cycles := 0, prevSeconds := p.calPrevReset }
  sw := { thresholdSamples := p.swInitThreshold, counter := 0, currentPressLength := 0, lastPressLength := 0,
          waitingForRelease := false }
  dp := { digits := { s0 := 11, s1 := 11, s2 := 11, s3 := 11 },
          dps := { s0 := false, s1 := false, s2 := false, s3 := false },
          digitEnabled := { s0 := true, s1 := true, s2 := true, s3 := true },
          cursor := 0, enabled := true }
  pins := { seg := 0, segDp := false, digSel := 0 }
  link := { ce := false, sclk := false, ioOe := false, ioOut := false }
  res := 0
  trace := []
  inputs := []
  env := { btnScript := [], btnDraws := 0, rtcScript := [], rtcDraws := 0 }
  params := p

/-- The block right after reset, at the configuration rule R6 takes (rule R36). -/
def State.reset : State := State.resetOf Config.Params.taken

end Sys2Proof.Machine
end

