-- ==== Sys2Proof/Machine/Flags.lean ====
section
/-! DEFINITION. The predicates computed from registers and never stored (rule R21). The block has no condition codes. -/

namespace Sys2Proof.Machine

/-- `calibrated()` = (`cal.cycles_per_second` > 0) (rules R21 and R122). -/
def Calibrator.calibrated (c : Calibrator) : Bool := decide (0 < c.cyclesPerSecond.toNat)

/-- `pressed()` = (`db.debounced_value` = 0): the button is active-low (rule R21). -/
def Debouncer.pressed (d : Debouncer) : Bool := !d.debouncedValue

/-- `push_length()` (rule R147): 0 when nothing is counted, else `counter div threshold + 1`, and F2 on a zero threshold. -/
def Classifier.pushLength (c : Classifier) : Except Fault Length :=
  if c.counter = 0 then .ok 0
  else if c.thresholdSamples = 0 then .error (.pushLengthDivideByZero c.counter)
  else .ok (BitVec.ofNat 25 (c.counter.toNat / c.thresholdSamples.toNat + 1))

end Sys2Proof.Machine
end

