-- ==== Sys2Proof/WellFormed.lean ====
section
/-! DEFINITION. Which operands an operation admits (rule R78). -/

namespace Sys2Proof

/-- The operands are ones the operation admits, as rule R78 lists them: a count at most `CNT_MAX`, glyph codes 0 to 21,
seconds and minutes at most 59, hours at most 23 in the setters; `CAL_CALIBRATE` and `CAL_LIT` admit every operand.
`CNT_MAX` is the configuration's. -/
def wellFormed (p : Config.Params) : Instr → Bool
  | .dbSetSamples n | .swSetThreshold n => decide (n.toNat ≤ p.cntMax)
  | .dpSetDigit _ g => decide (g.toNat ≤ 21)
  | .dpSetDigits g0 g1 g2 g3 =>
    decide (g0.toNat ≤ 21 ∧ g1.toNat ≤ 21 ∧ g2.toNat ≤ 21 ∧ g3.toNat ≤ 21)
  | .rtcSetSeconds v | .rtcSetMinutes v => decide (v.toNat ≤ 59)
  | .rtcSetHours v => decide (v.toNat ≤ 23)
  | .rtcSetTime h m s => decide (h.toNat ≤ 23 ∧ m.toNat ≤ 59 ∧ s.toNat ≤ 59)
  | .dbSample | .dbGet | .calCalibrate _ _ _ | .calCalibrated | .calCps | .calLit _ | .calReset
  | .swSample | .swPushLength | .swReportCurrent | .swReportLast | .swResetPressState
  | .dpUpdate | .dpSetDp _ _ | .dpSetAllDps _ | .dpSetDigitEnabled _ _ | .dpSetAllDigitsEnabled _ | .dpSetEnabled _
  | .rtcInit | .rtcReadReg _ _ | .rtcWriteReg _ _ _ | .rtcGetSeconds | .rtcGetMinutes | .rtcGetHours | .rtcGetTime
  | .rtcLinkCmdRead _ _ | .rtcLinkCmdWrite _ _ _ => true

end Sys2Proof
end

