-- ==== Sys2Proof/Decode.lean ====
section
/-! DEFINITION. The decoder of command words and of link command bytes, total, refusing by name; and the encoder.

Command words: rules R60 to R69, R76 and R77. Link command bytes: rules R71 and R79. -/

namespace Sys2Proof

/-- The slot a 2-bit slot field names (rules R65, R67). -/
def slotOfBits (b : BitVec 2) : Slot :=
  match b.toNat with
  | 0 => .s0
  | 1 => .s1
  | 2 => .s2
  | _ => .s3

/-- The 2-bit field that names a slot. -/
def slotBits : Slot → BitVec 2
  | .s0 => 0
  | .s1 => 1
  | .s2 => 2
  | .s3 => 3

/-- The field `cw[hi:lo]` of `n = hi - lo + 1` bits (rule R7). -/
def field (lo n : Nat) (cw : Word) : BitVec n := cw.extractLsb' lo n

/-- The one-bit field `cw[k]` as a boolean. -/
def flagField (k : Nat) (cw : Word) : Bool := cw.getLsbD k

/-- The opcode `cw[31:24]` (rule R60). -/
def opcodeOf (cw : Word) : Byte := field 24 8 cw

/-- `i` where the format's must-be-zero bits are all 0, else the word is reserved (rule R77). -/
def ifZero (mbzClear : Bool) (cw : Word) (i : Instr) : Except Reject Instr :=
  if mbzClear then .ok i else .error (.mustBeZero (opcodeOf cw))

/-- Format `N`: `cw[23:0]` = 0 (rule R62). -/
def formN (cw : Word) (i : Instr) : Except Reject Instr := ifZero (field 0 24 cw == 0) cw i

/-- Format `V`: `n` = `cw[23:0]` (rule R63). -/
def formV (cw : Word) (mk : BitVec 24 → Instr) : Except Reject Instr := .ok (mk (field 0 24 cw))

/-- Formats `M` and `V8`: the byte `cw[7:0]`, `cw[23:8]` = 0 (rules R64, R69). -/
def formByte (cw : Word) (mk : Byte → Instr) : Except Reject Instr :=
  ifZero (field 8 16 cw == 0) cw (mk (field 0 8 cw))

/-- Format `IG`: `i` = `cw[9:8]`, `g` = `cw[4:0]`, `cw[23:10]` = 0 and `cw[7:5]` = 0 (rule R65). -/
def formIG (cw : Word) (mk : Slot → GlyphCode → Instr) : Except Reject Instr :=
  ifZero (field 10 14 cw == 0 && field 5 3 cw == 0) cw (mk (slotOfBits (field 8 2 cw)) (field 0 5 cw))

/-- Format `G4`: four glyph codes from `cw[4:0]` up, `cw[23:20]` = 0 (rule R66). -/
def formG4 (cw : Word) (mk : GlyphCode → GlyphCode → GlyphCode → GlyphCode → Instr) : Except Reject Instr :=
  ifZero (field 20 4 cw == 0) cw (mk (field 0 5 cw) (field 5 5 cw) (field 10 5 cw) (field 15 5 cw))

/-- Format `IB`: `i` = `cw[9:8]`, `b` = `cw[0]`, all other operand bits 0 (rule R67). -/
def formIB (cw : Word) (mk : Slot → Bool → Instr) : Except Reject Instr :=
  ifZero (field 10 14 cw == 0 && field 1 7 cw == 0) cw (mk (slotOfBits (field 8 2 cw)) (flagField 0 cw))

/-- Format `B`: `b` = `cw[0]`, `cw[23:1]` = 0 (rule R67). -/
def formB (cw : Word) (mk : Bool → Instr) : Except Reject Instr :=
  ifZero (field 1 23 cw == 0) cw (mk (flagField 0 cw))

/-- Format `RA`: `bank` = `cw[13]`, `idx` = `cw[12:8]`, the other operand bits 0 (rule R68). -/
def formRA (cw : Word) (mk : Bool → BitVec 5 → Instr) : Except Reject Instr :=
  ifZero (field 14 10 cw == 0 && field 0 8 cw == 0) cw (mk (flagField 13 cw) (field 8 5 cw))

/-- Format `RW`: `bank` = `cw[13]`, `idx` = `cw[12:8]`, `data` = `cw[7:0]`, `cw[23:14]` = 0 (rule R68). -/
def formRW (cw : Word) (mk : Bool → BitVec 5 → Byte → Instr) : Except Reject Instr :=
  ifZero (field 14 10 cw == 0) cw (mk (flagField 13 cw) (field 8 5 cw) (field 0 8 cw))

/-- Format `T`: `hours` = `cw[23:16]`, `minutes` = `cw[15:8]`, `seconds` = `cw[7:0]` (rule R69). -/
def formT (cw : Word) (mk : Byte → Byte → Byte → Instr) : Except Reject Instr :=
  .ok (mk (field 16 8 cw) (field 8 8 cw) (field 0 8 cw))

/-- A word whose opcode no row has: a reserved unit or a reserved function of a unit (rule R77). -/
def reservedOpcode (cw : Word) : Reject :=
  if 1 ≤ (field 28 4 cw).toNat ∧ (field 28 4 cw).toNat ≤ 5 then .reservedFunction (field 28 4 cw) (field 24 4 cw)
  else .reservedUnit (field 28 4 cw)

/-- The command-word decoder: the opcode map of rule R76. -/
def decodeWord (cw : Word) : Except Reject Instr :=
  match (opcodeOf cw).toNat with
  | 0x10 => formN cw .dbSample
  | 0x11 => formN cw .dbGet
  | 0x12 => formV cw .dbSetSamples
  | 0x20 => formT cw .calCalibrate
  | 0x21 => formN cw .calCalibrated
  | 0x22 => formN cw .calCps
  | 0x23 => formByte cw .calLit
  | 0x24 => formN cw .calReset
  | 0x30 => formN cw .swSample
  | 0x31 => formN cw .swPushLength
  | 0x32 => formN cw .swReportCurrent
  | 0x33 => formN cw .swReportLast
  | 0x34 => formN cw .swResetPressState
  | 0x35 => formV cw .swSetThreshold
  | 0x40 => formN cw .dpUpdate
  | 0x41 => formIG cw .dpSetDigit
  | 0x42 => formG4 cw .dpSetDigits
  | 0x43 => formIB cw .dpSetDp
  | 0x44 => formB cw .dpSetAllDps
  | 0x45 => formIB cw .dpSetDigitEnabled
  | 0x46 => formB cw .dpSetAllDigitsEnabled
  | 0x47 => formB cw .dpSetEnabled
  | 0x50 => formN cw .rtcInit
  | 0x51 => formRA cw .rtcReadReg
  | 0x52 => formRW cw .rtcWriteReg
  | 0x53 => formN cw .rtcGetSeconds
  | 0x54 => formN cw .rtcGetMinutes
  | 0x55 => formN cw .rtcGetHours
  | 0x56 => formByte cw .rtcSetSeconds
  | 0x57 => formByte cw .rtcSetMinutes
  | 0x58 => formByte cw .rtcSetHours
  | 0x59 => formN cw .rtcGetTime
  | 0x5A => formT cw .rtcSetTime
  | _ => .error (reservedOpcode cw)

/-- The link decoder: `1BAAAAA1` is a read, `1BAAAAA0` a write, which sends `data` next (rules R71, R205, R206). -/
def decodeLink (cmd data : Byte) : Except Reject Instr :=
  if cmd.getLsbD 7 = false then .error (.notALinkCommand cmd)
  else if cmd.getLsbD 0 = false then .ok (.rtcLinkCmdWrite (cmd.getLsbD 6) (cmd.extractLsb' 1 5) data)
  else if data = 0 then .ok (.rtcLinkCmdRead (cmd.getLsbD 6) (cmd.extractLsb' 1 5))
  else .error (.dataAfterRead cmd data)

/-- The instruction a code names, or why it names none. -/
def decode : Code → Except Reject Instr
  | .command cw => decodeWord cw
  | .link cmd data => decodeLink cmd data

/-- A word of an opcode and a 24-bit operand field (rule R60). -/
def wordOf (opcode : Byte) (operands : BitVec 24) : Word := opcode ++ operands

/-- The operand field of formats `M` and `V8`. -/
def operandsByte (v : Byte) : BitVec 24 := 0#16 ++ v

/-- The operand field of format `IG`. -/
def operandsIG (i : Slot) (g : GlyphCode) : BitVec 24 := 0#14 ++ slotBits i ++ 0#3 ++ g

/-- The operand field of format `G4`. -/
def operandsG4 (g0 g1 g2 g3 : GlyphCode) : BitVec 24 := 0#4 ++ g3 ++ g2 ++ g1 ++ g0

/-- The operand field of format `IB`. -/
def operandsIB (i : Slot) (b : Bool) : BitVec 24 := 0#14 ++ slotBits i ++ 0#7 ++ BitVec.ofBool b

/-- The operand field of format `B`. -/
def operandsB (b : Bool) : BitVec 24 := 0#23 ++ BitVec.ofBool b

/-- The operand field of format `RA`. -/
def operandsRA (bank : Bool) (idx : BitVec 5) : BitVec 24 := 0#10 ++ BitVec.ofBool bank ++ idx ++ 0#8

/-- The operand field of format `RW`. -/
def operandsRW (bank : Bool) (idx : BitVec 5) (data : Byte) : BitVec 24 := 0#10 ++ BitVec.ofBool bank ++ idx ++ data

/-- The operand field of format `T`. -/
def operandsT (hours minutes seconds : Byte) : BitVec 24 := hours ++ minutes ++ seconds

/-- The word of format `N`. -/
def wordN (opcode : Byte) : Word := wordOf opcode 0

/-- The word of formats `M` and `V8`. -/
def wordByte (opcode v : Byte) : Word := wordOf opcode (operandsByte v)

/-- The word of format `IG`. -/
def wordIG (opcode : Byte) (i : Slot) (g : GlyphCode) : Word := wordOf opcode (operandsIG i g)

/-- The word of format `G4`. -/
def wordG4 (opcode : Byte) (g0 g1 g2 g3 : GlyphCode) : Word := wordOf opcode (operandsG4 g0 g1 g2 g3)

/-- The word of format `IB`. -/
def wordIB (opcode : Byte) (i : Slot) (b : Bool) : Word := wordOf opcode (operandsIB i b)

/-- The word of format `B`. -/
def wordB (opcode : Byte) (b : Bool) : Word := wordOf opcode (operandsB b)

/-- The word of format `RA`. -/
def wordRA (opcode : Byte) (bank : Bool) (idx : BitVec 5) : Word := wordOf opcode (operandsRA bank idx)

/-- The word of format `RW`. -/
def wordRW (opcode : Byte) (bank : Bool) (idx : BitVec 5) (data : Byte) : Word := wordOf opcode (operandsRW bank idx data)

/-- The word of format `T`. -/
def wordT (opcode hours minutes seconds : Byte) : Word := wordOf opcode (operandsT hours minutes seconds)

/-- The link command byte `1BAAAAAD` with `D` = 1 for a read (rule R71). -/
def linkByte (bank : Bool) (idx : BitVec 5) (rd : Bool) : Byte :=
  1#1 ++ BitVec.ofBool bank ++ idx ++ BitVec.ofBool rd

/-- The encoder: the code of every instruction, from the formats of rules R62 to R69 and the opcodes of rule R76. -/
def encode : Instr → Code
  | .dbSample => .command (wordN 0x10)
  | .dbGet => .command (wordN 0x11)
  | .dbSetSamples n => .command (wordOf 0x12 n)
  | .calCalibrate h m s => .command (wordT 0x20 h m s)
  | .calCalibrated => .command (wordN 0x21)
  | .calCps => .command (wordN 0x22)
  | .calLit m => .command (wordByte 0x23 m)
  | .calReset => .command (wordN 0x24)
  | .swSample => .command (wordN 0x30)
  | .swPushLength => .command (wordN 0x31)
  | .swReportCurrent => .command (wordN 0x32)
  | .swReportLast => .command (wordN 0x33)
  | .swResetPressState => .command (wordN 0x34)
  | .swSetThreshold n => .command (wordOf 0x35 n)
  | .dpUpdate => .command (wordN 0x40)
  | .dpSetDigit i g => .command (wordIG 0x41 i g)
  | .dpSetDigits g0 g1 g2 g3 => .command (wordG4 0x42 g0 g1 g2 g3)
  | .dpSetDp i b => .command (wordIB 0x43 i b)
  | .dpSetAllDps b => .command (wordB 0x44 b)
  | .dpSetDigitEnabled i b => .command (wordIB 0x45 i b)
  | .dpSetAllDigitsEnabled b => .command (wordB 0x46 b)
  | .dpSetEnabled b => .command (wordB 0x47 b)
  | .rtcInit => .command (wordN 0x50)
  | .rtcReadReg bank idx => .command (wordRA 0x51 bank idx)
  | .rtcWriteReg bank idx data => .command (wordRW 0x52 bank idx data)
  | .rtcGetSeconds => .command (wordN 0x53)
  | .rtcGetMinutes => .command (wordN 0x54)
  | .rtcGetHours => .command (wordN 0x55)
  | .rtcSetSeconds v => .command (wordByte 0x56 v)
  | .rtcSetMinutes v => .command (wordByte 0x57 v)
  | .rtcSetHours v => .command (wordByte 0x58 v)
  | .rtcGetTime => .command (wordN 0x59)
  | .rtcSetTime h m s => .command (wordT 0x5A h m s)
  | .rtcLinkCmdRead bank idx => .link (linkByte bank idx true) 0
  | .rtcLinkCmdWrite bank idx data => .link (linkByte bank idx false) data

/-- The code whose bits are `w`, numbered as `spec/opcode_table.json` numbers them: a row of 8 bits is a link command byte
(its data byte, which the row gives no bits, is 0), any other row a command word. -/
def codeOfTableWord (nbits w : Nat) : Code :=
  if nbits = 8 then .link (BitVec.ofNat 8 w) 0 else .command (BitVec.ofNat 32 w)

/-- The command word of the RTC operation whose transaction sends this command byte: `RTC_READ_REG` for a read, `RTC_WRITE_REG`
with the data byte 0 for a write (rule R79: "All 128 command bytes 0x80 to 0xFF can be sent through `RTC_READ_REG` and
`RTC_WRITE_REG`"). A byte with bit 7 = 0 is sent by none; as a word it is one of the reserved unit 0. -/
def senderOfLinkByte (cmd : Byte) : Word :=
  match decodeLink cmd 0 with
  | .ok (.rtcLinkCmdRead bank idx) => wordRA 0x51 bank idx
  | .ok (.rtcLinkCmdWrite bank idx data) => wordRW 0x52 bank idx data
  | _ => cmd.setWidth 32

/-- The command word a host issues to run the instruction whose bits are `w`: the word itself, and for a link command byte the
word of the operation that sends it (log entry 8). -/
def issuedTableWord (nbits w : Nat) : Word :=
  if nbits = 8 then senderOfLinkByte (BitVec.ofNat 8 w) else BitVec.ofNat 32 w

/-- The instruction the decoder reads from an instruction whose bits are `w`; none where it refuses. -/
def decodeTableWord (nbits w : Nat) : Option Instr :=
  match decode (codeOfTableWord nbits w) with
  | .ok i => some i
  | .error _ => none

end Sys2Proof
end

