-- ==== Sys2Proof/Machine/Operands.lean ====
section
/-! DEFINITION. The operand forms, the encodings the source fixes (rules R71 to R75) and the RTC register map (rules R41
to R48). -/

namespace Sys2Proof.Machine

/-- The registers of bank 0 that rule R44 names, in its order. -/
inductive RtcReg where
  | seconds | minutes | hours | day | month | weekday | year | control | trickleCharger
  deriving DecidableEq, Repr

/-- The index of a named register in bank 0 (rule R44). -/
def RtcReg.idx : RtcReg → BitVec 5
  | .seconds => 0
  | .minutes => 1
  | .hours => 2
  | .day => 3
  | .month => 4
  | .weekday => 5
  | .year => 6
  | .control => 7
  | .trickleCharger => 8

/-- The bank of the clock and control registers (rule R42). -/
def clockBank : Bool := false

/-- The clock-halt flag `CH`, bit 7 of the seconds register (rule R45). -/
def clockHaltMask : Byte := 0x80

/-- The hour-mode flag, bit 7 of the hours register: 1 = 12-hour mode (rule R47). -/
def hourModeMask : Byte := 0x80

/-- The byte that leaves the control register's write-protect flag `WP` (bit 7) and its other bits 0 (rules R48, R213). -/
def controlUnprotected : Byte := 0x00

/-- `rtc_force24`, the parameter of rule R6: `h & 0x7F`, the hour-mode flag cleared and the rest kept, but for the bytes to
which the configuration gives another result. -/
def rtcForce24 (p : Config.Params) (h : Byte) : Byte := (p.rtcForce24Except.lookup h).getD (h &&& ~~~hourModeMask)

/-- The link command byte `rtc_cmd(bank, idx, rd)` = `0x80 | bank << 6 | idx << 1 | rd` (rule R71). -/
def rtcCmd (bank : Bool) (idx : BitVec 5) (rd : Bool) : Byte :=
  0x80#8 ||| ((BitVec.ofBool bank).setWidth 8 <<< 6) ||| (idx.setWidth 8 <<< 1) ||| (BitVec.ofBool rd).setWidth 8

/-- Which bit of a byte is the k-th to cross the line (rule R75). -/
def bitpos : Config.BitOrder → Nat → Nat
  | .msbFirst, k => 7 - k
  | .lsbFirst, k => k

/-- The tens mask of seconds and minutes (rule R72). -/
def tensMaskSixty : Byte := 0x7

/-- The tens mask of hours (rule R72). -/
def tensMaskHours : Byte := 0x3

/-- `bcd(v)` (rule R72). -/
def bcd (v : Byte) : Byte := ((v / 10) <<< 4) ||| (v % 10)

/-- `unbcd(b, tm)` (rule R72), applied as written to ill-formed nibbles too. -/
def unbcd (b tm : Byte) : Byte := 10 * ((b >>> 4) &&& tm) + (b &&& 0x0F)

/-- The time of day in the `T` layout of rule R69: `(h << 16) | (m << 8) | s`. -/
def timeWord (hours minutes seconds : Byte) : Word := 0#8 ++ hours ++ minutes ++ seconds

/-- `GLYPH_SEG` (rules R6 and R73); free for a reserved code, which no operation stores (log entry 7). -/
def glyphSeg (p : Config.Params) (g : GlyphCode) : BitVec 7 :=
  if h : g.toNat < 22 then p.glyphSeg[g.toNat] else Config.reservedGlyphSeg g

/-- A count operand of format `V` is admitted up to `CNT_MAX` (rules R63 and R78). -/
def countAdmitted (p : Config.Params) (n : BitVec 24) : Bool := decide (n.toNat ≤ p.cntMax)

/-- A glyph code is admitted unless it is one of the reserved 22 to 31 (rules R73 and R78). -/
def glyphAdmitted (g : GlyphCode) : Bool := decide (g.toNat < 22)

/-- Seconds and minutes of a setter are admitted up to 59 (rule R78). -/
def sixtyAdmitted (v : Byte) : Bool := decide (v.toNat ≤ 59)

/-- Hours of a setter are admitted up to 23 (rule R78). -/
def hoursAdmitted (v : Byte) : Bool := decide (v.toNat ≤ 23)

/-- The element of a slot array. -/
def Slots.get {α : Type} (a : Slots α) : Slot → α
  | .s0 => a.s0
  | .s1 => a.s1
  | .s2 => a.s2
  | .s3 => a.s3

/-- The slot array with one element replaced. -/
def Slots.set {α : Type} (a : Slots α) (i : Slot) (v : α) : Slots α :=
  match i with
  | .s0 => { a with s0 := v }
  | .s1 => { a with s1 := v }
  | .s2 => { a with s2 := v }
  | .s3 => { a with s3 := v }

/-- The slot array with one value in every slot. -/
def Slots.all {α : Type} (v : α) : Slots α := { s0 := v, s1 := v, s2 := v, s3 := v }

/-- The slot a cursor value 0 to 3 selects (rule R26). -/
def slotOfCursor (c : BitVec 3) : Slot :=
  match c.toNat with
  | 0 => .s0
  | 1 => .s1
  | 2 => .s2
  | _ => .s3

end Sys2Proof.Machine
end

