-- ==== Sys2Proof/Machine/Ops.lean ====
section
/-! DEFINITION. The operations the meanings share: the start and the result of an operation, the environment's answers, the
counters' increments, the debouncer step, the RTC link primitives of rules R202 to R207, and reset (rule R280).

The block takes no exception and returns from none (rules R250, R259 and R260), so no operation here enters one. -/

namespace Sys2Proof.Machine

/-- The start of every operation: `res` is 0 until the operation gives a result (rule R70), and its trace is empty. -/
def State.begin (s : State) : State := { s with res := 0, trace := [] }

/-- `result v` (rule R8). -/
def State.result (v : Word) (s : State) : State := { s with res := v }

/-- A boolean result: `res[0]` (rule R70). -/
def State.resultBool (b : Bool) (s : State) : State := s.result ((BitVec.ofBool b).setWidth 32)

/-- A count, length or byte result, zero-extended (rule R70). -/
def State.resultZext {n : Nat} (v : BitVec n) (s : State) : State := s.result (v.setWidth 32)

/-- `sat_inc(c)` = `min(c + 1, CNT_MAX)` (rule R8). -/
def satInc (p : Config.Params) (c : Count) : Count := BitVec.ofNat 24 (min (c.toNat + 1) p.cntMax)

/-- `wrap_inc(c)` = `(c + 1) mod 2^CNT_W` (rule R8). -/
def wrapInc (p : Config.Params) (c : Count) : Count := BitVec.ofNat 24 ((c.toNat + 1) % p.cntValues)

/-- `ms_to_cycles(ms)` = `((ms × cps) div 1000) mod 2^CNT_W`, the product without loss (rule R126). -/
def msToCycles (p : Config.Params) (ms : Nat) (cps : Count) : Count :=
  BitVec.ofNat 24 (ms * cps.toNat / 1000 % p.cntValues)

/-- The environment's answer to the k-th button sample from now (rule R28, log entry 6). -/
def Env.btnAnswer (e : Env) (k : Nat) : Bool := e.btnScript.getD (e.btnDraws + k) (Config.btnLevel (e.btnDraws + k))

/-- The environment's answer to the k-th `SAMPLE` event from now (rule R32, log entry 6). -/
def Env.rtcAnswer (e : Env) (k : Nat) : Bool := e.rtcScript.getD (e.rtcDraws + k) (Config.rtcLevel (e.rtcDraws + k))

/-- `PinIn(btn)`: the level of the button line at this sample (rules R8 and R28). -/
def State.btnNow (s : State) : Bool := s.env.btnAnswer 0

/-- The state after the button line has been sampled once. -/
def State.btnSampled (s : State) : State := { s with env := { s.env with btnDraws := s.env.btnDraws + 1 } }

/-- The debouncer's registers after a sample of level `raw` (rule R101). -/
def Debouncer.sample (p : Config.Params) (d : Debouncer) (raw : Bool) : Debouncer :=
  if raw = d.debouncedValue then { d with counter := 0 }
  else if d.debounceSamples.toNat < (wrapInc p d.counter).toNat then { d with counter := 0, debouncedValue := raw }
  else { d with counter := wrapInc p d.counter }

/-- The debouncer step on the whole state: one sample of the line, then rule R101. -/
def State.debounce (s : State) : State := { s.btnSampled with db := s.db.sample s.params s.btnNow }

/-- An event's effect on the link's output pins (rule R74). -/
def LinkPins.apply (p : LinkPins) : PinEvent → LinkPins
  | .ce v => { p with ce := v }
  | .sclk v => { p with sclk := v }
  | .oe v => { p with ioOe := v }
  | .io v => { p with ioOut := v }
  | .sample _ => p
  | .wait => p

/-- `emit E` (rule R8): the pins change as rule R74 says and the event joins the operation's trace. -/
def State.emit (e : PinEvent) (s : State) : State := { s with link := s.link.apply e, trace := s.trace ++ [e] }

/-- The level `rtc_io_in` shows at this `SAMPLE` (rule R74). -/
def State.rtcNow (s : State) : Bool := s.env.rtcAnswer 0

/-- `emit SAMPLE -> v` with the environment's answer `v` (rules R32 and R74). -/
def State.emitSample (s : State) : State :=
  { s.emit (.sample s.rtcNow) with env := { s.env with rtcDraws := s.env.rtcDraws + 1 } }

/-- The eight bit indices `0..7` of a byte's transfer (rules R203 and R204). -/
def bitIndices : List Nat := [0, 1, 2, 3, 4, 5, 6, 7]

/-- `txn_start` (rule R202). -/
def State.txnStart (s : State) : State := s |>.emit (.sclk false) |>.emit (.ce true) |>.emit (.oe true) |>.emit .wait

/-- One bit of `shift_out` (rule R203). -/
def State.shiftOutBit (v : Bool) (s : State) : State :=
  s |>.emit (.sclk false) |>.emit (.io v) |>.emit .wait |>.emit (.sclk true) |>.emit .wait

/-- `shift_out(byte)` over the given bit indices (rule R203). -/
def State.shiftOutFrom (order : Config.BitOrder) (byte : Byte) : List Nat → State → State
  | [], s => s
  | k :: ks, s => State.shiftOutFrom order byte ks (s.shiftOutBit (byte.getLsbD (bitpos order k)))

/-- `shift_out(byte)` (rule R203). -/
def State.shiftOut (byte : Byte) (s : State) : State := s.shiftOutFrom s.params.rtcBitOrder byte bitIndices

/-- `byte[p] <- v` for a bit that is still 0. -/
def setBit (byte : Byte) (p : Nat) (v : Bool) : Byte := byte ||| ((BitVec.ofBool v).setWidth 8 <<< p)

/-- The falling edge and the wait before a received bit (rule R204). -/
def State.fallBeforeSample (s : State) : State := s |>.emit (.sclk false) |>.emit .wait

/-- The rising edge between received bits: after every bit but the last (rule R204). -/
def State.riseAfterSample (k : Nat) (s : State) : State := if k < 7 then s |>.emit (.sclk true) |>.emit .wait else s

/-- `shift_in()` over the given bit indices: the byte so far, and the state (rule R204). -/
def State.shiftInFrom (order : Config.BitOrder) : List Nat → Byte → State → Byte × State
  | [], byte, s => (byte, s)
  | k :: ks, byte, s =>
    State.shiftInFrom order ks (setBit byte (bitpos order k) s.fallBeforeSample.rtcNow)
      (s.fallBeforeSample.emitSample.riseAfterSample k)

/-- `shift_in()` (rule R204). -/
def State.shiftIn (s : State) : Byte × State := s.shiftInFrom s.params.rtcBitOrder bitIndices 0

/-- `txn_close` (rule R207). It leaves `rtc_io_out` at the last level driven, as rule R201 says; rule R32's idle value 0 is read as
the value after reset. DESIGN CHOICE between the two rules, log entry 20. -/
def State.txnClose (s : State) : State :=
  s |>.emit (.sclk false) |>.emit .wait |>.emit (.ce false) |>.emit (.oe false) |>.emit .wait

/-- `MemWrite((bank, idx), 1, data)`, the write transaction (rule R205). -/
def State.memWrite (bank : Bool) (idx : BitVec 5) (data : Byte) (s : State) : State :=
  s |>.txnStart |>.shiftOut (rtcCmd bank idx false) |>.shiftOut data |>.txnClose

/-- The state when a read transaction's data line has been switched to input (rule R206). -/
def State.readOpened (bank : Bool) (idx : BitVec 5) (s : State) : State :=
  s |>.txnStart |>.shiftOut (rtcCmd bank idx true) |>.emit (.oe false)

/-- `MemRead((bank, idx), 1)`, the read transaction: the byte and the state after it (rule R206). -/
def State.memRead (bank : Bool) (idx : BitVec 5) (s : State) : Byte × State :=
  ((s.readOpened bank idx).shiftIn.1, (s.readOpened bank idx).shiftIn.2.txnClose)

/-- Reset (rule R280): every register and registered pin takes its reset value. What the host has handed over after it and
what the environment answers are no registers of the block, and the configuration is what the block was built with. -/
def State.takeReset (s : State) (rest : List Input) : State := { State.resetOf s.params with inputs := rest, env := s.env }

end Sys2Proof.Machine
end

