-- ==== Sys2Proof/Machine/Calibrator.lean ====
section
/-! DEFINITION. Unit CAL, the loop-speed calibrator (`41_calibrator.md`). -/

namespace Sys2Proof.Machine

/-- The calibrator's registers after one `calibrate` call with this seconds value (rule R121). -/
def Calibrator.calibrate (p : Config.Params) (c : Calibrator) (seconds : Byte) : Calibrator :=
  if seconds = c.prevSeconds then { c with cycles := wrapInc p c.cycles }
  else { cyclesPerSecond := wrapInc p c.cycles, cycles := 0, prevSeconds := seconds }

/-- `CAL_CALIBRATE t` (rule R121): only the seconds of the operand are read. -/
def execCalCalibrate (_hours _minutes seconds : Byte) (s : State) : Host.Outcome State Fault Refusal :=
  .next { s.begin with cal := s.cal.calibrate s.params seconds }

/-- `CAL_CALIBRATED` (rule R122). -/
def execCalCalibrated (s : State) : Host.Outcome State Fault Refusal := .next (s.begin.resultBool s.cal.calibrated)

/-- `CAL_CPS` (rule R123). -/
def execCalCps (s : State) : Host.Outcome State Fault Refusal := .next (s.begin.resultZext s.cal.cyclesPerSecond)

/-- The length of one sub-period of the second, `cps div modulo` (rule R124); 0 where the division has no use. -/
def Calibrator.subPeriod (c : Calibrator) (modulo : Byte) : Nat := c.cyclesPerSecond.toNat / modulo.toNat

/-- `CAL_LIT modulo` (rule R124), with fault F1 of rule R252. -/
def execCalLit (modulo : Byte) (s : State) : Host.Outcome State Fault Refusal :=
  if modulo = 0 then .fault (.litDivideByZero modulo s.cal.cyclesPerSecond)
  else if s.cal.subPeriod modulo = 0 then .fault (.litDivideByZero modulo s.cal.cyclesPerSecond)
  else .next (s.begin.resultBool (decide (s.cal.cycles.toNat / s.cal.subPeriod modulo % 2 = 0)))

/-- `CAL_RESET` (rule R125). -/
def execCalReset (s : State) : Host.Outcome State Fault Refusal :=
  .next { s.begin with cal := { cyclesPerSecond := 0, cycles := 0, prevSeconds := s.params.calPrevReset } }

end Sys2Proof.Machine
end

