-- ==== Sys2Proof/Machine/Classifier.lean ====
section
/-! DEFINITION. Unit SW, the press-duration classifier (`42_press_classifier.md`). -/

namespace Sys2Proof.Machine

/-- Step 1 of `SW_SAMPLE`, the retune (rule R148): both thresholds from the estimate, or nothing while uncalibrated. -/
def State.retune (s : State) : State :=
  if s.cal.calibrated then
    { s with db := { s.db with debounceSamples := msToCycles s.params s.params.debounceMs s.cal.cyclesPerSecond },
             sw := { s.sw with thresholdSamples := msToCycles s.params s.params.unitMs s.cal.cyclesPerSecond } }
  else s

/-- Step 3 of `SW_SAMPLE` at a pressed sample (rule R141): nothing while waiting for release; else the counter saturates up
and the latch is raised to `push_length()` if that is larger. -/
def Classifier.countPress (p : Config.Params) (c : Classifier) : Except Fault Classifier :=
  if c.waitingForRelease then .ok c
  else
    match Classifier.pushLength { c with counter := satInc p c.counter } with
    | .error f => .error f
    | .ok pl =>
      if c.currentPressLength.toNat < pl.toNat then
        .ok { c with counter := satInc p c.counter, currentPressLength := pl }
      else .ok { c with counter := satInc p c.counter }

/-- Step 3 of `SW_SAMPLE` at an unpressed sample (rule R141): a counted press leaves its length in the last latch; counter,
current latch and the waiting flag are cleared. -/
def Classifier.release (c : Classifier) : Except Fault Classifier :=
  if c.counter = 0 then
    .ok { c with counter := 0, currentPressLength := 0, waitingForRelease := false }
  else
    match c.pushLength with
    | .error f => .error f
    | .ok pl => .ok { c with lastPressLength := pl, counter := 0, currentPressLength := 0, waitingForRelease := false }

/-- Step 3 of `SW_SAMPLE`, on the debounced value step 2 has just produced (rule R141). -/
def Classifier.classify (p : Config.Params) (c : Classifier) (pressed : Bool) : Except Fault Classifier :=
  if pressed then c.countPress p else c.release

/-- Steps 1 and 2 of `SW_SAMPLE`: the retune, then the debouncer step (rule R141). -/
def State.retuneAndDebounce (s : State) : State := s.retune.debounce

/-- `SW_SAMPLE` (rule R141). -/
def execSwSample (s : State) : Host.Outcome State Fault Refusal :=
  match s.begin.retuneAndDebounce.sw.classify s.params s.begin.retuneAndDebounce.db.pressed with
  | .ok c => .next { s.begin.retuneAndDebounce with sw := c }
  | .error f => .fault f

/-- `SW_PUSH_LENGTH` (rule R142). -/
def execSwPushLength (s : State) : Host.Outcome State Fault Refusal :=
  match s.sw.pushLength with
  | .ok pl => .next (s.begin.resultZext pl)
  | .error f => .fault f

/-- `SW_REPORT_CURRENT` (rule R143): read, then clear. -/
def execSwReportCurrent (s : State) : Host.Outcome State Fault Refusal :=
  .next (State.resultZext s.sw.currentPressLength { s.begin with sw := { s.sw with currentPressLength := 0 } })

/-- `SW_REPORT_LAST` (rule R144): read, then clear. -/
def execSwReportLast (s : State) : Host.Outcome State Fault Refusal :=
  .next (State.resultZext s.sw.lastPressLength { s.begin with sw := { s.sw with lastPressLength := 0 } })

/-- `SW_RESET_PRESS_STATE` (rule R145). -/
def execSwResetPressState (s : State) : Host.Outcome State Fault Refusal :=
  .next { s.begin with sw := { s.sw with counter := 0, currentPressLength := 0, lastPressLength := 0,
                                         waitingForRelease := true } }

/-- `SW_SET_THRESHOLD n` (rule R146); a count above `CNT_MAX` is refused (rule R255). -/
def execSwSetThreshold (n : BitVec 24) (s : State) : Host.Outcome State Fault Refusal :=
  if countAdmitted s.params n then
    .next { s.begin with sw := { s.sw with thresholdSamples := n } }
  else .refused (.operandOutOfRange (wordOf 0x35 n))

end Sys2Proof.Machine
end

