-- ==== Sys2Proof/Machine/Debouncer.lean ====
section
/-! DEFINITION. Unit DB, the debouncer with hysteresis (`40_debouncer.md`). -/

namespace Sys2Proof.Machine

/-- `DB_SAMPLE` (rule R101). -/
def execDbSample (s : State) : Host.Outcome State Fault Refusal := .next s.begin.debounce

/-- `DB_GET` (rule R102). -/
def execDbGet (s : State) : Host.Outcome State Fault Refusal := .next (s.begin.resultBool s.db.debouncedValue)

/-- `DB_SET_SAMPLES n` (rule R103); a count above `CNT_MAX` is refused (rule R255). -/
def execDbSetSamples (n : BitVec 24) (s : State) : Host.Outcome State Fault Refusal :=
  if countAdmitted s.params n then
    .next { s.begin with db := { s.db with debounceSamples := n } }
  else .refused (.operandOutOfRange (wordOf 0x12 n))

end Sys2Proof.Machine
end

