-- ==== Sys2Proof/Machine/Display.lean ====
section
/-! DEFINITION. Unit DP, the multiplexed seven-segment scanner (`43_display_scanner.md`). -/

namespace Sys2Proof.Machine

/-- The next cursor value: 0 where cursor + 1 ≥ 4, so a stray cursor heals to 0 (rule R171). -/
def nextCursor (c : BitVec 3) : BitVec 3 := if 4 ≤ c.toNat + 1 then 0 else c + 1

/-- What the pins show for the slot `c` selects (rule R171). -/
def Display.drive (p : Config.Params) (d : Display) (c : BitVec 3) : DisplayPins :=
  { seg := if d.digitEnabled.get (slotOfCursor c) then glyphSeg p (d.digits.get (slotOfCursor c)) else 0
    segDp := d.digitEnabled.get (slotOfCursor c) && d.dps.get (slotOfCursor c)
    digSel := if d.enabled then 1#4 <<< c.toNat else 0 }

/-- `DP_UPDATE` (rule R171): the cursor advances first, then all twelve pins change together. -/
def execDpUpdate (s : State) : Host.Outcome State Fault Refusal :=
  .next { s.begin with dp := { s.dp with cursor := nextCursor s.dp.cursor }, pins := s.dp.drive s.params (nextCursor s.dp.cursor) }

/-- `DP_SET_DIGIT i, g` (rule R172); a reserved glyph is refused (rule R256). -/
def execDpSetDigit (i : Slot) (g : GlyphCode) (s : State) : Host.Outcome State Fault Refusal :=
  if glyphAdmitted g then .next { s.begin with dp := { s.dp with digits := s.dp.digits.set i g } }
  else .refused (.reservedGlyph (wordIG 0x41 i g))

/-- `DP_SET_DIGITS g0, g1, g2, g3` (rule R173); refused whole if any glyph is reserved (rule R256). -/
def execDpSetDigits (g0 g1 g2 g3 : GlyphCode) (s : State) : Host.Outcome State Fault Refusal :=
  if glyphAdmitted g0 && glyphAdmitted g1 && glyphAdmitted g2 && glyphAdmitted g3 then
    .next { s.begin with dp := { s.dp with digits := { s0 := g0, s1 := g1, s2 := g2, s3 := g3 } } }
  else .refused (.reservedGlyph (wordG4 0x42 g0 g1 g2 g3))

/-- `DP_SET_DP i, b` (rule R174). -/
def execDpSetDp (i : Slot) (b : Bool) (s : State) : Host.Outcome State Fault Refusal :=
  .next { s.begin with dp := { s.dp with dps := s.dp.dps.set i b } }

/-- `DP_SET_ALL_DPS b` (rule R175). -/
def execDpSetAllDps (b : Bool) (s : State) : Host.Outcome State Fault Refusal :=
  .next { s.begin with dp := { s.dp with dps := Slots.all b } }

/-- `DP_SET_DIGIT_ENABLED i, b` (rule R176). -/
def execDpSetDigitEnabled (i : Slot) (b : Bool) (s : State) : Host.Outcome State Fault Refusal :=
  .next { s.begin with dp := { s.dp with digitEnabled := s.dp.digitEnabled.set i b } }

/-- `DP_SET_ALL_DIGITS_ENABLED b` (rule R177). -/
def execDpSetAllDigitsEnabled (b : Bool) (s : State) : Host.Outcome State Fault Refusal :=
  .next { s.begin with dp := { s.dp with digitEnabled := Slots.all b } }

/-- `DP_SET_ENABLED b` (rule R178): the pins do not change before the next update. -/
def execDpSetEnabled (b : Bool) (s : State) : Host.Outcome State Fault Refusal :=
  .next { s.begin with dp := { s.dp with enabled := b } }

/-- The electrical levels of the twelve display lines (rule R29, `SEG_ACTIVE_LEVEL` and `DIG_ACTIVE_LEVEL` of rule R6):
an asserted line has its active level. A view of the pins; no operation reads it. -/
def DisplayPins.electrical (c : Config.Params) (p : DisplayPins) : DisplayPins :=
  { seg := if c.segActiveLevel then p.seg else ~~~p.seg
    segDp := if c.segActiveLevel then p.segDp else !p.segDp
    digSel := if c.digActiveLevel then p.digSel else ~~~p.digSel }

end Sys2Proof.Machine
end

