-- ==== Sys2Proof/Machine/Rtc.lean ====
section
/-! DEFINITION. Unit RTC, the 3-wire serial BCD protocol engine (`44_rtc_engine.md`). -/

namespace Sys2Proof.Machine

/-- A named register read: `MemRead((0, r), 1)` (rules R44 and R206). -/
def State.readReg (r : RtcReg) (s : State) : Byte × State := s.memRead clockBank r.idx

/-- A named register write: `MemWrite((0, r), 1, data)` (rules R44 and R205). -/
def State.writeReg (r : RtcReg) (data : Byte) (s : State) : State := s.memWrite clockBank r.idx data

/-- A field read: one read transaction, decoded under the tens mask (rules R72 and R210 to R212). -/
def State.readField (r : RtcReg) (tensMask : Byte) (s : State) : Byte × State :=
  (unbcd (s.readReg r).1 tensMask, (s.readReg r).2)

/-- `RTC_READ_REG bank:idx` (rule R208). -/
def execRtcReadReg (bank : Bool) (idx : BitVec 5) (s : State) : Host.Outcome State Fault Refusal :=
  .next ((s.begin.memRead bank idx).2.resultZext (s.begin.memRead bank idx).1)

/-- `RTC_WRITE_REG bank:idx, data` (rule R209). -/
def execRtcWriteReg (bank : Bool) (idx : BitVec 5) (data : Byte) (s : State) : Host.Outcome State Fault Refusal :=
  .next (s.begin.memWrite bank idx data)

/-- `RTC_GET_SECONDS` (rule R210). -/
def execRtcGetSeconds (s : State) : Host.Outcome State Fault Refusal :=
  .next ((s.begin.readField .seconds tensMaskSixty).2.resultZext (s.begin.readField .seconds tensMaskSixty).1)

/-- `RTC_GET_MINUTES` (rule R211). -/
def execRtcGetMinutes (s : State) : Host.Outcome State Fault Refusal :=
  .next ((s.begin.readField .minutes tensMaskSixty).2.resultZext (s.begin.readField .minutes tensMaskSixty).1)

/-- `RTC_GET_HOURS` (rule R212). -/
def execRtcGetHours (s : State) : Host.Outcome State Fault Refusal :=
  .next ((s.begin.readField .hours tensMaskHours).2.resultZext (s.begin.readField .hours tensMaskHours).1)

/-- Transaction 1 of `RTC_INIT`: write-protect is cleared (rule R213). -/
def State.initUnprotect (s : State) : State := s.writeReg .control controlUnprotected

/-- Transactions 2 and 3 of `RTC_INIT`: the seconds are read and written back with clock-halt cleared (rule R213). -/
def State.initStartClock (s : State) : State :=
  (s.readReg .seconds).2.writeReg .seconds ((s.readReg .seconds).1 &&& ~~~clockHaltMask)

/-- Transactions 4 and 5 of `RTC_INIT`: the hours are read and written back through `rtc_force24` (rule R213). -/
def State.initForce24 (s : State) : State :=
  (s.readReg .hours).2.writeReg .hours (rtcForce24 s.params (s.readReg .hours).1)

/-- `RTC_INIT` (rule R213). -/
def execRtcInit (s : State) : Host.Outcome State Fault Refusal :=
  .next s.begin.initUnprotect.initStartClock.initForce24

/-- `RTC_SET_SECONDS v` (rule R214); above 59 refused before any pin event (rule R255). -/
def execRtcSetSeconds (v : Byte) (s : State) : Host.Outcome State Fault Refusal :=
  if sixtyAdmitted v then .next (s.begin.writeReg .seconds (bcd v))
  else .refused (.operandOutOfRange (wordByte 0x56 v))

/-- `RTC_SET_MINUTES v` (rule R215); above 59 refused before any pin event (rule R255). -/
def execRtcSetMinutes (v : Byte) (s : State) : Host.Outcome State Fault Refusal :=
  if sixtyAdmitted v then .next (s.begin.writeReg .minutes (bcd v))
  else .refused (.operandOutOfRange (wordByte 0x57 v))

/-- `RTC_SET_HOURS v` (rule R216); above 23 refused before any pin event (rule R255). -/
def execRtcSetHours (v : Byte) (s : State) : Host.Outcome State Fault Refusal :=
  if hoursAdmitted v then .next (s.begin.writeReg .hours (bcd v))
  else .refused (.operandOutOfRange (wordByte 0x58 v))

/-- The state after the hours transaction of `RTC_GET_TIME` (rule R217). -/
def State.timeHoursRead (s : State) : Byte × State := s.readField .hours tensMaskHours

/-- The state after the hours and minutes transactions of `RTC_GET_TIME` (rule R217). -/
def State.timeMinutesRead (s : State) : Byte × State := s.timeHoursRead.2.readField .minutes tensMaskSixty

/-- The state after all three transactions of `RTC_GET_TIME` (rule R217). -/
def State.timeSecondsRead (s : State) : Byte × State := s.timeMinutesRead.2.readField .seconds tensMaskSixty

/-- `RTC_GET_TIME` (rule R217): hours, minutes, seconds, three transactions. -/
def execRtcGetTime (s : State) : Host.Outcome State Fault Refusal :=
  .next (s.begin.timeSecondsRead.2.result
    (timeWord s.begin.timeHoursRead.1 s.begin.timeMinutesRead.1 s.begin.timeSecondsRead.1))

/-- `RTC_SET_TIME hours:minutes:seconds` (rule R218); a field out of range refuses before any pin event (rule R255). -/
def execRtcSetTime (hours minutes seconds : Byte) (s : State) : Host.Outcome State Fault Refusal :=
  if hoursAdmitted hours && sixtyAdmitted minutes && sixtyAdmitted seconds then
    .next (s.begin |>.writeReg .hours (bcd hours) |>.writeReg .minutes (bcd minutes) |>.writeReg .seconds (bcd seconds))
  else .refused (.operandOutOfRange (wordT 0x5A hours minutes seconds))

/-- `RTC_LINK_CMD_READ`: the read transaction that sends this command byte (rules R71 and R206), its byte on `res[7:0]`. The row
is a byte on the link and no operation: no step takes it, and `RTC_READ_REG` of the same address is what sends it.
DESIGN CHOICE, log entry 8. -/
def execRtcLinkCmdRead (bank : Bool) (idx : BitVec 5) (s : State) : Host.Outcome State Fault Refusal :=
  .next ((s.begin.memRead bank idx).2.resultZext (s.begin.memRead bank idx).1)

/-- `RTC_LINK_CMD_WRITE`: the write transaction that sends this command byte and then `data` (rules R71 and R205). No step takes
it, and `RTC_WRITE_REG` of the same address and byte is what sends it. DESIGN CHOICE, log entry 8. -/
def execRtcLinkCmdWrite (bank : Bool) (idx : BitVec 5) (data : Byte) (s : State) : Host.Outcome State Fault Refusal :=
  .next (s.begin.memWrite bank idx data)

end Sys2Proof.Machine
end

