-- ==== Sys2Proof/Machine/Dispatch.lean ====
section
/-! DEFINITION. One arm per instruction, each one call of its meaning. -/

namespace Sys2Proof.Machine

def exec (i : Instr) (s : State) : Host.Outcome State Fault Refusal :=
  match i with
  | .dbSample => Sys2Proof.Machine.execDbSample s
  | .dbGet => Sys2Proof.Machine.execDbGet s
  | .dbSetSamples n => Sys2Proof.Machine.execDbSetSamples n s
  | .calCalibrate hours minutes seconds => Sys2Proof.Machine.execCalCalibrate hours minutes seconds s
  | .calCalibrated => Sys2Proof.Machine.execCalCalibrated s
  | .calCps => Sys2Proof.Machine.execCalCps s
  | .calLit modulo => Sys2Proof.Machine.execCalLit modulo s
  | .calReset => Sys2Proof.Machine.execCalReset s
  | .swSample => Sys2Proof.Machine.execSwSample s
  | .swPushLength => Sys2Proof.Machine.execSwPushLength s
  | .swReportCurrent => Sys2Proof.Machine.execSwReportCurrent s
  | .swReportLast => Sys2Proof.Machine.execSwReportLast s
  | .swResetPressState => Sys2Proof.Machine.execSwResetPressState s
  | .swSetThreshold n => Sys2Proof.Machine.execSwSetThreshold n s
  | .dpUpdate => Sys2Proof.Machine.execDpUpdate s
  | .dpSetDigit slot g => Sys2Proof.Machine.execDpSetDigit slot g s
  | .dpSetDigits g0 g1 g2 g3 => Sys2Proof.Machine.execDpSetDigits g0 g1 g2 g3 s
  | .dpSetDp slot b => Sys2Proof.Machine.execDpSetDp slot b s
  | .dpSetAllDps b => Sys2Proof.Machine.execDpSetAllDps b s
  | .dpSetDigitEnabled slot b => Sys2Proof.Machine.execDpSetDigitEnabled slot b s
  | .dpSetAllDigitsEnabled b => Sys2Proof.Machine.execDpSetAllDigitsEnabled b s
  | .dpSetEnabled b => Sys2Proof.Machine.execDpSetEnabled b s
  | .rtcInit => Sys2Proof.Machine.execRtcInit s
  | .rtcReadReg bank idx => Sys2Proof.Machine.execRtcReadReg bank idx s
  | .rtcWriteReg bank idx data => Sys2Proof.Machine.execRtcWriteReg bank idx data s
  | .rtcGetSeconds => Sys2Proof.Machine.execRtcGetSeconds s
  | .rtcGetMinutes => Sys2Proof.Machine.execRtcGetMinutes s
  | .rtcGetHours => Sys2Proof.Machine.execRtcGetHours s
  | .rtcSetSeconds v => Sys2Proof.Machine.execRtcSetSeconds v s
  | .rtcSetMinutes v => Sys2Proof.Machine.execRtcSetMinutes v s
  | .rtcSetHours v => Sys2Proof.Machine.execRtcSetHours v s
  | .rtcGetTime => Sys2Proof.Machine.execRtcGetTime s
  | .rtcSetTime hours minutes seconds => Sys2Proof.Machine.execRtcSetTime hours minutes seconds s
  | .rtcLinkCmdRead bank idx => Sys2Proof.Machine.execRtcLinkCmdRead bank idx s
  | .rtcLinkCmdWrite bank idx data => Sys2Proof.Machine.execRtcLinkCmdWrite bank idx data s

end Sys2Proof.Machine
end

