-- ==== Sys2Proof/Machine/Step.lean ====
section
/-! DEFINITION. One step of the block: it takes what the host hands over next (rules R5, R34 and R280). -/

namespace Sys2Proof.Machine

/-- The operation a command word selects, run on the state the word has been taken from; a word that selects none is refused as
X1 (rule R254). -/
def runWord (cw : Word) (s : State) : Host.Outcome State Fault Refusal :=
  match decodeWord cw with
  | .ok i => exec i s
  | .error _ => .refused (.reservedCommandWord cw)

/-- One step: with nothing handed over the block waits (rule R280: "After reset the block waits for the first command
word"); `rst` resets it; a command word runs, whole, as one operation (rule R5). -/
def step (s : State) : Host.Outcome State Fault Refusal :=
  match s.inputs with
  | [] => .next s
  | .rst :: rest => .next (s.takeReset rest)
  | .issue cw :: rest => runWord cw { s with inputs := rest }

/-- `s` with the command word that runs the instruction whose bits are `w` handed over next (log entries 8 and 9). -/
def State.withFetchWord (s : State) (nbits w : Nat) : State :=
  { s with inputs := .issue (issuedTableWord nbits w) :: s.inputs }

end Sys2Proof.Machine
end

