-- ==== Sys2Proof/Machine/Link.lean ====
section
/-! DEFINITION. What is seen on the RTC link: the event lists of rules R202 to R207 written out as lists, and the observers
of a trace (rules R74, R75, R220 and R222). No meaning uses this file; claims about traces are stated in its words. -/

namespace Sys2Proof.Machine

/-- Emit a list of events, first event first. -/
def State.emitAll (es : List PinEvent) (s : State) : State := es.foldl (fun t e => t.emit e) s

/-- The events of `txn_start` (rule R202). -/
def startEvents : List PinEvent := [.sclk false, .ce true, .oe true, .wait]

/-- The events of `shift_out(byte)` (rule R203). -/
def outEvents (order : Config.BitOrder) (byte : Byte) : List PinEvent :=
  bitIndices.flatMap fun k =>
    [.sclk false, .io (byte.getLsbD (bitpos order k)), .wait, .sclk true, .wait]

/-- The events of `shift_in()` when the k-th sample is answered `v k` (rule R204). -/
def inEvents (v : Nat → Bool) : List PinEvent :=
  bitIndices.flatMap fun k => [.sclk false, .wait, .sample (v k)] ++ if k < 7 then [.sclk true, .wait] else []

/-- The events of `txn_close` (rule R207). -/
def closeEvents : List PinEvent := [.sclk false, .wait, .ce false, .oe false, .wait]

/-- The events of the write transaction (rule R205). -/
def writeEvents (order : Config.BitOrder) (bank : Bool) (idx : BitVec 5) (data : Byte) : List PinEvent :=
  startEvents ++ outEvents order (rtcCmd bank idx false) ++ outEvents order data ++ closeEvents

/-- The events of the read transaction when the k-th sample is answered `v k` (rule R206). -/
def readEvents (order : Config.BitOrder) (bank : Bool) (idx : BitVec 5) (v : Nat → Bool) : List PinEvent :=
  startEvents ++ outEvents order (rtcCmd bank idx true) ++ [.oe false] ++ inEvents v ++ closeEvents

/-- The byte eight answers assemble to (rules R75 and R204): the k-th answer is bit `bitpos(k)`. -/
def receivedByte (order : Config.BitOrder) (v : Nat → Bool) : Byte :=
  bitIndices.foldl (fun byte k => setBit byte (bitpos order k) (v k)) 0

/-- The idle link (rule R201): chip not selected, clock low, data line released. -/
def LinkPins.idle (p : LinkPins) : Bool := !p.ce && !p.sclk && !p.ioOe

/-- How many `WAIT` events a trace holds (rule R304). -/
def waitCount (t : List PinEvent) : Nat := t.countP (· == .wait)

/-- The time a trace spends in its `WAIT` events, each `T_RTC` long (rules R6 and R222). -/
def waitTime (p : Config.Params) (t : List PinEvent) : Nat := waitCount t * p.tRtc

/-- The answers a trace's `SAMPLE` events got, in order. -/
def sampledLevels : List PinEvent → List Bool
  | [] => []
  | .sample v :: es => v :: sampledLevels es
  | _ :: es => sampledLevels es

/-- How often a wire of the link changes from `!level` to `level` along a trace that starts at pins `p` (rule R220). -/
def edgeCount (wire : LinkPins → Bool) (level : Bool) : LinkPins → List PinEvent → Nat
  | _, [] => 0
  | p, e :: es =>
    (if wire p ≠ level ∧ wire (p.apply e) = level then 1 else 0) + edgeCount wire level (p.apply e) es

/-- The bits the chip takes along a trace that starts at pins `p`: the data line's level at each rising clock edge while the
chip is selected and the block drives the line (rules R75 and R203). -/
def bitsTaken : LinkPins → List PinEvent → List Bool
  | _, [] => []
  | p, e :: es =>
    if p.ce = true ∧ p.ioOe = true ∧ p.sclk = false ∧ (p.apply e).sclk = true then
      p.ioOut :: bitsTaken (p.apply e) es
    else bitsTaken (p.apply e) es

/-- The bits the chip takes, transaction by transaction: a rise of chip-select opens a new list, and the bits taken before the
next rise belong to the last list opened (rules R75 and R200). The second argument is the list being filled. -/
def bitsByTransaction : LinkPins → Option (List Bool) → List PinEvent → List (List Bool)
  | _, none, [] => []
  | _, some bits, [] => [bits]
  | p, bits, e :: es =>
    if p.ce = false ∧ (p.apply e).ce = true then bits.toList ++ bitsByTransaction (p.apply e) (some []) es
    else if p.ce = true ∧ p.ioOe = true ∧ p.sclk = false ∧ (p.apply e).sclk = true then
      bitsByTransaction (p.apply e) (bits.map (· ++ [p.ioOut])) es
    else bitsByTransaction (p.apply e) bits es

/-- The bank bit, bit 6, of a transaction whose bits as the chip takes them are these (rules R71 and R75). -/
def bankBit (order : Config.BitOrder) (bits : List Bool) : Option Bool := bits[bitpos order 6]?

/-- An event that rule R74 deletes before comparing: a `WAIT`, or a write that sets a pin to the value it has. -/
def PinEvent.silent (p : LinkPins) : PinEvent → Bool
  | .wait => true
  | .sample _ => false
  | e => p.apply e == p

/-- A trace reduced as rule R74 allows. -/
def reduceTrace : LinkPins → List PinEvent → List PinEvent
  | _, [] => []
  | p, e :: es => if e.silent p then reduceTrace (p.apply e) es else e :: reduceTrace (p.apply e) es

/-- Two traces from the same pins are the same observation (rule R74). -/
def sameObservation (p : LinkPins) (t u : List PinEvent) : Prop := reduceTrace p t = reduceTrace p u

end Sys2Proof.Machine
end

