-- ==== Sys2Proof/Safety.lean ====
section
/-! DEFINITION. The terms claims use: the invariant of rule R35, when an operation completes, and a run of operations. -/

namespace Sys2Proof.Machine

/-- At most one digit-select line is 1 (rules R29 and R179). -/
def DisplayPins.oneHot (p : DisplayPins) : Bool :=
  p.digSel == 0b0000 || p.digSel == 0b0001 || p.digSel == 0b0010 || p.digSel == 0b0100 || p.digSel == 0b1000

/-- A glyph code of rule R73's table, not one of the reserved 22 to 31. -/
def glyphNamed (g : GlyphCode) : Bool := decide (g.toNat ≤ 21)

/-- Every counter and threshold is a value of `CNT_W` bits and every press length one of `LEN_W` bits (rules R11 to R19). -/
def State.withinWidths (s : State) : Bool :=
  decide (s.db.debounceSamples.toNat ≤ s.params.cntMax ∧ s.db.counter.toNat ≤ s.params.cntMax ∧
    s.cal.cyclesPerSecond.toNat ≤ s.params.cntMax ∧ s.cal.cycles.toNat ≤ s.params.cntMax ∧
    s.sw.thresholdSamples.toNat ≤ s.params.cntMax ∧ s.sw.counter.toNat ≤ s.params.cntMax ∧
    s.sw.currentPressLength.toNat < 2 * s.params.cntValues ∧ s.sw.lastPressLength.toNat < 2 * s.params.cntValues)

/-- The invariants (a) to (e) and (g) of rule R35, and the widths of the registers. Its (f) speaks of the last `DP_UPDATE` and is
a statement about that operation. -/
structure BlockInv (s : State) : Prop where
  /-- The configuration's reset thresholds are values of `CNT_W` bits. -/
  configAdmitted : s.params.admitted = true
  /-- (c), `sw.counter <= CNT_MAX`, and the widths of the other counters, thresholds and lengths. -/
  widths : s.withinWidths = true
  /-- (a): `dig_sel` has at most one bit set. -/
  digitSelect : s.pins.oneHot = true
  /-- (b): `dp.cursor <= 3`. -/
  cursorLegal : s.dp.cursor.toNat ≤ 3
  /-- (d): while waiting for release, nothing is counted and nothing latched. -/
  waitingClear : s.sw.waitingForRelease = true → s.sw.counter = 0 ∧ s.sw.currentPressLength = 0
  /-- (e): the link is idle between operations. -/
  linkIdle : s.link.idle = true
  /-- (g): every slot holds a non-reserved glyph code. -/
  glyphsNamed : ∀ i : Slot, glyphNamed (s.dp.digits.get i) = true

/-- `push_length()` has a value: nothing is counted, or the threshold is not 0 (rule R147). -/
def Classifier.lengthDefined (c : Classifier) : Bool := c.counter == 0 || c.thresholdSamples != 0

/-- Step 3 of `SW_SAMPLE` evaluates no undefined `push_length()` (rules R141 and R301). -/
def Classifier.classifies (c : Classifier) (pressed : Bool) : Bool :=
  if pressed then c.waitingForRelease || c.thresholdSamples != 0 else c.lengthDefined

/-- The operation completes: its operands are admitted (rule R78) and it divides by nothing that is 0 (rules R252, R253). -/
def completes (i : Instr) (s : State) : Bool :=
  wellFormed s.params i &&
    match i with
    | .calLit modulo => decide (0 < s.cal.cyclesPerSecond.toNat / modulo.toNat)
    | .swPushLength => s.sw.lengthDefined
    | .swSample => s.retuneAndDebounce.sw.classifies s.retuneAndDebounce.db.pressed
    | _ => true

/-- A run of operations issued one after another (rule R54), stopping at the first fault or refusal. -/
def runOps : List Instr → State → Host.Outcome State Fault Refusal
  | [], s => .next s
  | i :: is, s =>
    match exec i s with
    | .next t => runOps is t
    | .fault f => .fault f
    | .refused r => .refused r

end Sys2Proof.Machine
end

