-- ==== Sys2Proof/Certificates/Slice0/Obligations.lean ====
section
/-! DEFINITION. The statements for the provers, unit by unit in the order of the opcode table, then the whole machine.

A conclusion `exec i s = .next { s with … }` says the operation's whole effect: every field that is not named is unchanged.
`s.env.btnAnswer k` and `s.env.rtcAnswer k` are the environment's answers to the k-th sample from now, whatever they are.
`s.params` is the configuration of rule R6: a statement over every state holds for every counter width, both bit orders, every
glyph table and every other parameter. -/

namespace Sys2Proof.Machine.Claims

/-- A byte in a command word at bit position `k`. -/
def at32 {n : Nat} (v : BitVec n) (k : Nat) : Word := v.setWidth 32 <<< k

/-- A boolean in a command word at bit position `k`. -/
def bit32 (b : Bool) (k : Nat) : Word := at32 (BitVec.ofBool b) k

/-- The bit of a byte that is the k-th to cross the line: bit 7 first or bit 0 first (rule R75). -/
def lineBit (order : Config.BitOrder) (k : Nat) : Nat := if order = .msbFirst then 7 - k else k

/-- The bits of a byte, listed bit 7 first, in the order they cross the line (rule R75). -/
def onLine (order : Config.BitOrder) (bits : List Bool) : List Bool := if order = .msbFirst then bits else bits.reverse

/-- `b` is the byte the eight answers `v 0` to `v 7` assemble to (rule R75). -/
def assembles (order : Config.BitOrder) (b : Byte) (v : Nat → Bool) : Prop := ∀ k, k < 8 → b.getLsbD (lineBit order k) = v k

/-- The last bit of a byte to cross the line (rule R75). -/
def lastBit (order : Config.BitOrder) (b : Byte) : Bool := b.getLsbD (lineBit order 7)

/-- `unbcd(b, tm)` as a number, the tens mask `tm` = 2^k - 1 written as a remainder by `tm + 1` (rule R72). -/
def decoded (b : Byte) (tm : Nat) : Nat := 10 * (b.toNat / 16 % (tm + 1)) + b.toNat % 16

/-- `bcd(v)` as a byte (rule R72). -/
def encoded (v : Byte) : Byte := BitVec.ofNat 8 (16 * (v.toNat / 10) + v.toNat % 10)

/-- The pins of the idle link with `level` as the last level driven (rule R201); that `rtc_io_out` keeps it and does not return to
rule R32's 0 is the MODEL's choice of log entry 20. -/
def idlePins (level : Bool) : LinkPins := { ce := false, sclk := false, ioOe := false, ioOut := level }

/-- The bits of a byte, bit 7 first. -/
def bitsMsbFirst (b : Byte) : List Bool :=
  [b.getLsbD 7, b.getLsbD 6, b.getLsbD 5, b.getLsbD 4, b.getLsbD 3, b.getLsbD 2, b.getLsbD 1, b.getLsbD 0]

/-- `((ms × cps) div 1000) mod 2^CNT_W`, a threshold in samples (rule R126). -/
def samplesFor (p : Config.Params) (ms : Nat) (c : Calibrator) : Count :=
  BitVec.ofNat 24 (ms * c.cyclesPerSecond.toNat / 1000 % 2 ^ p.cntW.val)

/-- The state after the retune: both thresholds from the estimate, or nothing while uncalibrated (rule R148). -/
def retuned (s : State) : State :=
  if s.cal.cyclesPerSecond.toNat = 0 then s
  else { s with
    db := { s.db with debounceSamples := samplesFor s.params s.params.debounceMs.val s.cal }
    sw := { s.sw with thresholdSamples := samplesFor s.params s.params.unitMs.val s.cal } }

/-- The debouncer after a sample of level `raw` (rule R101). -/
def sampledLevel (p : Config.Params) (d : Debouncer) (raw : Bool) : Debouncer :=
  if raw = d.debouncedValue then { d with counter := 0 }
  else if d.debounceSamples.toNat < (d.counter.toNat + 1) % 2 ^ p.cntW.val then
    { d with debouncedValue := raw, counter := 0 }
  else { d with counter := BitVec.ofNat 24 ((d.counter.toNat + 1) % 2 ^ p.cntW.val) }

/-- The state after one sample of the button line by the debouncer (rule R101). -/
def sampledOnce (s : State) : State :=
  { s with
    db := sampledLevel s.params s.db (s.env.btnAnswer 0)
    res := 0
    trace := []
    env := { s.env with btnDraws := s.env.btnDraws + 1 } }

/-- What the retune and the debouncer make of `n` samples, the classifier's own registers aside (steps 1 and 2 of rule R141). -/
def debouncedRun : Nat → State → State
  | 0, s => s
  | n + 1, s => sampledOnce (retuned (debouncedRun n s))

/-- The press counter one sample later, saturated at `CNT_MAX` (rule R8). -/
def countedOnce (p : Config.Params) (c : Classifier) : Count := BitVec.ofNat 24 (min (c.counter.toNat + 1) p.cntMax)

/-- The length `n div threshold + 1` of a press of `n` samples (rule R147). -/
def lengthOf (n : Nat) (c : Classifier) : Nat := n / c.thresholdSamples.toNat + 1

/-- The classifier after one more pressed sample: the counter saturating, the latch raised to the length if that is
larger. -/
def countedPress (p : Config.Params) (c : Classifier) : Classifier :=
  { c with
    counter := countedOnce p c
    currentPressLength := BitVec.ofNat 25 (max c.currentPressLength.toNat (lengthOf (countedOnce p c).toNat c)) }

/-- The classifier after a release that ends a counted press: its length latched, the rest cleared. -/
def releasedPress (c : Classifier) : Classifier :=
  { thresholdSamples := c.thresholdSamples, counter := 0, currentPressLength := 0, waitingForRelease := false
    lastPressLength := BitVec.ofNat 25 (lengthOf c.counter.toNat c) }

/-- An idle classifier with this threshold and this last length. -/
def idleAfter (threshold : Count) (last : Nat) : Classifier :=
  { thresholdSamples := threshold, counter := 0, currentPressLength := 0, lastPressLength := BitVec.ofNat 25 last
    waitingForRelease := false }

/-- How many read transactions an instruction runs (rule R220). -/
def readsOf : Instr → Nat
  | .rtcReadReg _ _ | .rtcGetSeconds | .rtcGetMinutes | .rtcGetHours | .rtcLinkCmdRead _ _ => 1
  | .rtcInit => 2
  | .rtcGetTime => 3
  | .dbSample | .dbGet | .dbSetSamples _ | .calCalibrate _ _ _ | .calCalibrated | .calCps | .calLit _ | .calReset
  | .swSample | .swPushLength | .swReportCurrent | .swReportLast | .swResetPressState | .swSetThreshold _
  | .dpUpdate | .dpSetDigit _ _ | .dpSetDigits _ _ _ _ | .dpSetDp _ _ | .dpSetAllDps _ | .dpSetDigitEnabled _ _
  | .dpSetAllDigitsEnabled _ | .dpSetEnabled _ | .rtcWriteReg _ _ _ | .rtcSetSeconds _ | .rtcSetMinutes _
  | .rtcSetHours _ | .rtcSetTime _ _ _ | .rtcLinkCmdWrite _ _ _ => 0

/-- How many button samples an instruction takes (rule R28). -/
def buttonSamplesOf (i : Instr) : Nat := if i = .dbSample ∨ i = .swSample then 1 else 0

/-- The same environment but for the RTC data line. -/
def withRtcAnswers (e : Env) (script : List Bool) (draws : Nat) : Env := { e with rtcScript := script, rtcDraws := draws }

/-- A field read of one register under a tens mask: one read transaction of (bank 0, `idx`), the answered byte decoded
(rules R206, R210 to R212).
The level left on `rtc_io_out` is the MODEL's choice of log entry 20. -/
def ReadsField (i : Instr) (idx : BitVec 5) (tm : Nat) : Prop :=
  ∀ s : State, ∃ b : Byte, assembles s.params.rtcBitOrder b s.env.rtcAnswer ∧
    exec i s = .next { s with
      link := idlePins true
      res := BitVec.ofNat 32 (decoded b tm)
      trace := readEvents s.params.rtcBitOrder false idx s.env.rtcAnswer
      env := { s.env with rtcDraws := s.env.rtcDraws + 8 } }

/-- A field write: an admitted value is encoded and written to (bank 0, `idx`) in one write transaction; a value above `top`
is refused with its command word (rules R205, R214 to R216 and R255).
The level left on `rtc_io_out` is the MODEL's choice of log entry 20. -/
def WritesField (mk : Byte → Instr) (base : Word) (idx : BitVec 5) (top : Nat) : Prop :=
  ∀ (v : Byte) (s : State), encode (mk v) = .command (base ||| at32 v 0) ∧
    (v.toNat ≤ top → exec (mk v) s = .next { s with
      link := idlePins (lastBit s.params.rtcBitOrder (encoded v))
      res := 0
      trace := writeEvents s.params.rtcBitOrder false idx (encoded v) }) ∧
    (top < v.toNat → exec (mk v) s = .refused (.operandOutOfRange (base ||| at32 v 0)))

end Sys2Proof.Machine.Claims

open Sys2Proof Sys2Proof.Machine Sys2Proof.Machine.Claims

/-! ### Unit DB -/

/-- R101: `DB_SAMPLE` clears the counter on an agreeing sample, counts a disagreeing one (wrapping), and accepts the new
level, clearing the counter, when the count exceeds the threshold. -/
def Obligations.DbSampleAppliesHysteresis : Prop :=
  encode .dbSample = .command 0x10000000#32 ∧
  ∀ s : State, ∃ d : Debouncer,
    exec .dbSample s = .next { s with
      db := d, res := 0, trace := [], env := { s.env with btnDraws := s.env.btnDraws + 1 } } ∧
    d.debounceSamples = s.db.debounceSamples ∧
    (s.env.btnAnswer 0 = s.db.debouncedValue → d.debouncedValue = s.db.debouncedValue ∧ d.counter = 0) ∧
    (s.env.btnAnswer 0 ≠ s.db.debouncedValue →
      s.db.debounceSamples.toNat < (s.db.counter.toNat + 1) % 2 ^ s.params.cntW.val →
      d.debouncedValue = s.env.btnAnswer 0 ∧ d.counter = 0) ∧
    (s.env.btnAnswer 0 ≠ s.db.debouncedValue →
      (s.db.counter.toNat + 1) % 2 ^ s.params.cntW.val ≤ s.db.debounceSamples.toNat →
      d.debouncedValue = s.db.debouncedValue ∧ d.counter.toNat = (s.db.counter.toNat + 1) % 2 ^ s.params.cntW.val)

/-- R102: `DB_GET` returns the debounced level and changes nothing; right after reset that is the idle level 1. -/
def Obligations.DbGetReturnsDebouncedLevel : Prop :=
  encode .dbGet = .command 0x11000000#32 ∧
  (∀ s : State, exec .dbGet s = .next { s with res := if s.db.debouncedValue then 1 else 0, trace := [] }) ∧
  exec .dbGet State.reset = .next { State.reset with res := 1 }

/-- R103: `DB_SET_SAMPLES n` stores the threshold and nothing else; a count above `CNT_MAX` is refused. -/
def Obligations.DbSetSamplesRetunesThreshold : Prop :=
  ∀ (n : BitVec 24) (s : State),
    encode (.dbSetSamples n) = .command (0x12000000#32 ||| at32 n 0) ∧
    (n.toNat ≤ s.params.cntMax →
      exec (.dbSetSamples n) s = .next { s with
        db := { s.db with debounceSamples := n }, res := 0, trace := [] }) ∧
    (s.params.cntMax < n.toNat →
      exec (.dbSetSamples n) s = .refused (.operandOutOfRange (0x12000000#32 ||| at32 n 0)))

/-- `40_debouncer.md` section 3: a run of `m` disagreeing samples from a cleared counter leaves the value while `m` is at
most the threshold N, and changes it exactly at sample N + 1, after which the counter is 0 for good. -/
def Obligations.DebouncerChangesExactlyOnceAfterThreshold : Prop :=
  ∀ (s : State) (m : Nat), s.db.counter = 0 → s.db.debounceSamples.toNat < s.params.cntMax →
    (∀ k, k < m → s.env.btnAnswer k = !s.db.debouncedValue) →
    ∃ t, runOps (List.replicate m .dbSample) s = .next t ∧
      t.db.debounceSamples = s.db.debounceSamples ∧
      (m ≤ s.db.debounceSamples.toNat → t.db.debouncedValue = s.db.debouncedValue ∧ t.db.counter.toNat = m) ∧
      (s.db.debounceSamples.toNat < m → t.db.debouncedValue = (!s.db.debouncedValue) ∧ t.db.counter = 0)

/-- `40_debouncer.md` section 3: at most N disagreeing samples followed by one agreeing sample leave the value unchanged and
the counter 0. -/
def Obligations.DebouncerIgnoresShortGlitch : Prop :=
  ∀ (s : State) (m : Nat), s.db.counter = 0 → s.db.debounceSamples.toNat < s.params.cntMax →
    m ≤ s.db.debounceSamples.toNat →
    (∀ k, k < m → s.env.btnAnswer k = !s.db.debouncedValue) → s.env.btnAnswer m = s.db.debouncedValue →
    ∃ t, runOps (List.replicate (m + 1) .dbSample) s = .next t ∧ t.db = s.db

/-- `40_debouncer.md` section 3: with the threshold at `CNT_MAX` no run of samples, of any levels, changes the value. -/
def Obligations.DebouncerNeverChangesAtMaxThreshold : Prop :=
  ∀ (s : State) (m : Nat), s.db.debounceSamples.toNat = s.params.cntMax →
    ∃ t, runOps (List.replicate m .dbSample) s = .next t ∧ t.db.debouncedValue = s.db.debouncedValue

/-- `10_state.md` section 2: after a sample the counter is at most the threshold. -/
def Obligations.SamplingLeavesCounterWithinThreshold : Prop :=
  ∀ (i : Instr) (s t : State), i = .dbSample ∨ i = .swSample → exec i s = .next t →
    t.db.counter.toNat ≤ t.db.debounceSamples.toNat

/-! ### Unit CAL -/

/-- R121: `CAL_CALIBRATE` counts the call (wrapping); at a changed seconds value it stores the count, clears it and keeps
the new seconds. Only the seconds of the operand are read. -/
def Obligations.CalCalibrateCountsAndSnapshots : Prop :=
  ∀ (h m sec : Byte) (s : State),
    encode (.calCalibrate h m sec) = .command (0x20000000#32 ||| at32 h 16 ||| at32 m 8 ||| at32 sec 0) ∧
    ∃ c : Calibrator,
      exec (.calCalibrate h m sec) s = .next { s with cal := c, res := 0, trace := [] } ∧
      (sec = s.cal.prevSeconds →
        c.cycles.toNat = (s.cal.cycles.toNat + 1) % 2 ^ s.params.cntW.val ∧
        c.cyclesPerSecond = s.cal.cyclesPerSecond ∧ c.prevSeconds = s.cal.prevSeconds) ∧
      (sec ≠ s.cal.prevSeconds →
        c.cyclesPerSecond.toNat = (s.cal.cycles.toNat + 1) % 2 ^ s.params.cntW.val ∧
        c.cycles = 0 ∧ c.prevSeconds = sec)

/-- R122 and R123: `CAL_CALIBRATED` tells whether the estimate is above 0, `CAL_CPS` gives it; neither changes a register.
-/
def Obligations.CalReadsTheEstimate : Prop :=
  encode .calCalibrated = .command 0x21000000#32 ∧ encode .calCps = .command 0x22000000#32 ∧
  ∀ s : State,
    exec .calCalibrated s = .next { s with res := if 0 < s.cal.cyclesPerSecond.toNat then 1 else 0, trace := [] } ∧
    exec .calCps s = .next { s with res := BitVec.ofNat 32 s.cal.cyclesPerSecond.toNat, trace := [] }

/-- R124 with R252: `CAL_LIT` is true in even-numbered sub-periods of `cps div modulo` iterations, and faults
`LitDivideByZero` where that length does not exist or is 0. -/
def Obligations.CalLitTellsEvenSubPeriods : Prop :=
  ∀ (modulo : Byte) (s : State),
    encode (.calLit modulo) = .command (0x23000000#32 ||| at32 modulo 0) ∧
    (modulo.toNat = 0 ∨ s.cal.cyclesPerSecond.toNat / modulo.toNat = 0 →
      exec (.calLit modulo) s = .fault (.litDivideByZero modulo s.cal.cyclesPerSecond)) ∧
    (modulo.toNat ≠ 0 → s.cal.cyclesPerSecond.toNat / modulo.toNat ≠ 0 →
      exec (.calLit modulo) s = .next { s with
        res := if s.cal.cycles.toNat / (s.cal.cyclesPerSecond.toNat / modulo.toNat) % 2 = 0 then 1 else 0
        trace := [] })

/-- R125: `CAL_RESET` returns the three calibrator registers to their reset values. -/
def Obligations.CalResetForgetsCalibration : Prop :=
  encode .calReset = .command 0x24000000#32 ∧
  ∀ s : State, exec .calReset s = .next { s with
    cal := { cyclesPerSecond := 0, cycles := 0, prevSeconds := s.params.calPrevReset }, res := 0, trace := [] }

/-- `41_calibrator.md` section 3: `ms_to_cycles` is `(ms × cps) div 1000` reduced to `CNT_W` bits, and for at most 1000 ms and an
estimate of `CNT_W` bits the reduction changes nothing and the value is at most the estimate. -/
def Obligations.MillisecondConversionTruncates : Prop :=
  ∀ (p : Config.Params) (ms : Nat) (cps : Count),
    (msToCycles p ms cps).toNat = ms * cps.toNat / 1000 % 2 ^ p.cntW.val ∧
    (ms ≤ 1000 → cps.toNat ≤ p.cntMax →
      (msToCycles p ms cps).toNat = ms * cps.toNat / 1000 ∧ (msToCycles p ms cps).toNat ≤ cps.toNat)

/-- `41_calibrator.md` section 4: any number of calls that carry the seconds value already seen leave the estimate; the
first call that carries another stores how many calls there were, itself included, on top of what was counted before. -/
def Obligations.CalibratorMeasuresCallsPerSecond : Prop :=
  ∀ (s : State) (calls : List (Byte × Byte)) (h m sec : Byte), sec ≠ s.cal.prevSeconds →
    ∃ u t, runOps (calls.map fun p => .calCalibrate p.1 p.2 s.cal.prevSeconds) s = .next u ∧
      u.cal.cyclesPerSecond = s.cal.cyclesPerSecond ∧ u.cal.prevSeconds = s.cal.prevSeconds ∧
      exec (.calCalibrate h m sec) u = .next t ∧
      t.cal.cyclesPerSecond.toNat = (s.cal.cycles.toNat + calls.length + 1) % 2 ^ s.params.cntW.val ∧
      t.cal.cycles = 0 ∧ t.cal.prevSeconds = sec

/-! ### Unit SW -/

/-- R141: `SW_SAMPLE` retunes both thresholds when calibrated (`retuned`), takes the debouncer step of `DB_SAMPLE` on that
(`sampledOnce`), then classifies on the debounced value just produced, with every outcome of rule R141. -/
def Obligations.SwSampleRetunesDebouncesClassifies : Prop :=
  encode .swSample = .command 0x30000000#32 ∧
  ∀ s u : State, u = sampledOnce (retuned s) →
    exec .dbSample (retuned s) = .next u ∧
    (u.db.debouncedValue = false → u.sw.waitingForRelease = true → exec .swSample s = .next u) ∧
    (u.db.debouncedValue = false → u.sw.waitingForRelease = false → u.sw.thresholdSamples.toNat = 0 →
      exec .swSample s = .fault (.pushLengthDivideByZero (countedOnce u.params u.sw))) ∧
    (u.db.debouncedValue = false → u.sw.waitingForRelease = false → u.sw.thresholdSamples.toNat ≠ 0 →
      exec .swSample s = .next { u with sw := countedPress u.params u.sw }) ∧
    (u.db.debouncedValue = true → u.sw.counter.toNat = 0 →
      exec .swSample s = .next { u with sw := { u.sw with currentPressLength := 0, waitingForRelease := false } }) ∧
    (u.db.debouncedValue = true → u.sw.counter.toNat ≠ 0 → u.sw.thresholdSamples.toNat = 0 →
      exec .swSample s = .fault (.pushLengthDivideByZero u.sw.counter)) ∧
    (u.db.debouncedValue = true → u.sw.counter.toNat ≠ 0 → u.sw.thresholdSamples.toNat ≠ 0 →
      exec .swSample s = .next { u with sw := releasedPress u.sw })

/-- R142 with R147: `SW_PUSH_LENGTH` gives 0 when nothing is counted, else `counter div threshold + 1`, and faults
`PushLengthDivideByZero` on a zero threshold; it changes no register. -/
def Obligations.SwPushLengthIsLiveLength : Prop :=
  encode .swPushLength = .command 0x31000000#32 ∧
  ∀ s : State,
    (s.sw.counter.toNat = 0 → exec .swPushLength s = .next { s with res := 0, trace := [] }) ∧
    (s.sw.counter.toNat ≠ 0 → s.sw.thresholdSamples.toNat = 0 →
      exec .swPushLength s = .fault (.pushLengthDivideByZero s.sw.counter)) ∧
    (s.sw.counter.toNat ≠ 0 → s.sw.thresholdSamples.toNat ≠ 0 →
      exec .swPushLength s = .next { s with
        res := BitVec.ofNat 32 (s.sw.counter.toNat / s.sw.thresholdSamples.toNat + 1), trace := [] })

/-- R143: `SW_REPORT_CURRENT` returns the current latch and clears it, so a second read gives 0. -/
def Obligations.SwReportCurrentReadsOnce : Prop :=
  encode .swReportCurrent = .command 0x32000000#32 ∧
  ∀ s : State, ∃ t,
    exec .swReportCurrent s = .next t ∧
    t = { s with sw := { s.sw with currentPressLength := 0 }
                 res := BitVec.ofNat 32 s.sw.currentPressLength.toNat
                 trace := [] } ∧
    exec .swReportCurrent t = .next { t with res := 0 }

/-- R144: `SW_REPORT_LAST` returns the last latch and clears it, so a second read gives 0. -/
def Obligations.SwReportLastReadsOnce : Prop :=
  encode .swReportLast = .command 0x33000000#32 ∧
  ∀ s : State, ∃ t,
    exec .swReportLast s = .next t ∧
    t = { s with sw := { s.sw with lastPressLength := 0 }
                 res := BitVec.ofNat 32 s.sw.lastPressLength.toNat
                 trace := [] } ∧
    exec .swReportLast t = .next { t with res := 0 }

/-- R145: `SW_RESET_PRESS_STATE` zeroes the counter and both latches and waits for release; thresholds and debouncer stay.
-/
def Obligations.SwResetPressStateDropsThePress : Prop :=
  encode .swResetPressState = .command 0x34000000#32 ∧
  ∀ s : State, exec .swResetPressState s = .next { s with
    sw := { thresholdSamples := s.sw.thresholdSamples, counter := 0, currentPressLength := 0, lastPressLength := 0,
            waitingForRelease := true }
    res := 0, trace := [] }

/-- R146: `SW_SET_THRESHOLD n` stores the duration unit and nothing else; a count above `CNT_MAX` is refused. -/
def Obligations.SwSetThresholdStoresTheUnit : Prop :=
  ∀ (n : BitVec 24) (s : State),
    encode (.swSetThreshold n) = .command (0x35000000#32 ||| at32 n 0) ∧
    (n.toNat ≤ s.params.cntMax →
      exec (.swSetThreshold n) s = .next { s with
        sw := { s.sw with thresholdSamples := n }, res := 0, trace := [] }) ∧
    (s.params.cntMax < n.toNat →
      exec (.swSetThreshold n) s = .refused (.operandOutOfRange (0x35000000#32 ||| at32 n 0)))

/-- `42_press_classifier.md` section 3, calibrated or not, whatever the debounce threshold N, with a duration unit T ≥ 1 after
the retune: an idle classifier that sees `h` debounced-pressed samples and then one unpressed ends idle with
`(min h CNT_MAX) div T + 1` in the last latch; and so does a raw press of `h` > N samples, with N < `CNT_MAX`, on a settled
debouncer that shows unpressed, once the line has been released for N + 1 samples. -/
def Obligations.PressIsQuantizedInDurationUnits : Prop :=
  ∀ (s : State) (h : Nat), s.sw.counter = 0 → s.sw.waitingForRelease = false →
    (retuned s).sw.thresholdSamples.toNat ≠ 0 →
    (1 ≤ h → (∀ k, k < h → (debouncedRun (k + 1) s).db.debouncedValue = false) →
      (debouncedRun (h + 1) s).db.debouncedValue = true →
      ∃ t, runOps (List.replicate (h + 1) .swSample) s = .next t ∧ t.db = (debouncedRun (h + 1) s).db ∧
        t.sw = idleAfter (retuned s).sw.thresholdSamples
          (min h s.params.cntMax / (retuned s).sw.thresholdSamples.toNat + 1)) ∧
    (∀ n, n = (retuned s).db.debounceSamples.toNat → n < s.params.cntMax → n < h → s.db.counter = 0 →
      s.db.debouncedValue = true → (∀ k, k < h → s.env.btnAnswer k = false) →
      (∀ k, h ≤ k → k < h + n + 1 → s.env.btnAnswer k = true) →
      ∃ t, runOps (List.replicate (h + n + 1) .swSample) s = .next t ∧ t.db = (retuned s).db ∧
        t.sw = idleAfter (retuned s).sw.thresholdSamples
          (min h s.params.cntMax / (retuned s).sw.thresholdSamples.toNat + 1))

/-- `42_press_classifier.md` section 2 and `70_reset_and_hazards.md` section 3, calibrated or not, filtered or not: after
`SW_RESET_PRESS_STATE` the rest of the hold, of any length, counts nothing, whatever the thresholds are (a zero duration unit
faults nothing), and the sample that sees its release reports nothing and ends the waiting. -/
def Obligations.ConsumedHoldIsNotReportedAgain : Prop :=
  ∀ (s : State) (m : Nat), (∀ k, k < m → (debouncedRun (k + 1) s).db.debouncedValue = false) →
    (debouncedRun (m + 1) s).db.debouncedValue = true →
    ∃ u t, runOps (.swResetPressState :: List.replicate m .swSample) s = .next u ∧
      u.db = (debouncedRun m s).db ∧
      u.sw = { idleAfter (debouncedRun m s).sw.thresholdSamples 0 with waitingForRelease := true } ∧
      exec .swSample u = .next t ∧
      t.db = (debouncedRun (m + 1) s).db ∧ t.sw = idleAfter (debouncedRun (m + 1) s).sw.thresholdSamples 0

/-! ### Unit DP -/

/-- R171: `DP_UPDATE` advances the cursor (a value of 3 or more goes to 0), then drives the slot it selects: the glyph's
segments and the decimal point gated by the slot's enable, and its digit-select line alone, or none when disabled. -/
def Obligations.DpUpdateDrivesTheNextSlot : Prop :=
  encode .dpUpdate = .command 0x40000000#32 ∧
  ∀ s : State, ∃ (c : BitVec 3) (i : Slot),
    c.toNat = (if 4 ≤ s.dp.cursor.toNat + 1 then 0 else s.dp.cursor.toNat + 1) ∧
    (slotBits i).toNat = c.toNat ∧
    exec .dpUpdate s = .next { s with
      dp := { s.dp with cursor := c }
      pins := { seg := if s.dp.digitEnabled.get i then glyphSeg s.params (s.dp.digits.get i) else 0
                segDp := s.dp.digitEnabled.get i && s.dp.dps.get i
                digSel := if s.dp.enabled then BitVec.ofNat 4 (2 ^ c.toNat) else 0 }
      res := 0, trace := [] }

/-- R172: `DP_SET_DIGIT i, g` stores the glyph in slot `i` alone and moves no pin; codes 22 to 31 are refused. -/
def Obligations.DpSetDigitStoresOneGlyph : Prop :=
  ∀ (i : Slot) (g : GlyphCode) (s : State),
    encode (.dpSetDigit i g) = .command (0x41000000#32 ||| at32 (slotBits i) 8 ||| at32 g 0) ∧
    (g.toNat ≤ 21 → ∃ a : Slots GlyphCode,
      exec (.dpSetDigit i g) s = .next { s with dp := { s.dp with digits := a }, res := 0, trace := [] } ∧
      a.get i = g ∧ ∀ j, j ≠ i → a.get j = s.dp.digits.get j) ∧
    (22 ≤ g.toNat → exec (.dpSetDigit i g) s =
      .refused (.reservedGlyph (0x41000000#32 ||| at32 (slotBits i) 8 ||| at32 g 0)))

/-- R173: `DP_SET_DIGITS` stores all four glyphs; if any code is 22 to 31 the whole operation is refused. -/
def Obligations.DpSetDigitsStoresFourGlyphs : Prop :=
  ∀ (g0 g1 g2 g3 : GlyphCode) (s : State),
    encode (.dpSetDigits g0 g1 g2 g3) =
      .command (0x42000000#32 ||| at32 g3 15 ||| at32 g2 10 ||| at32 g1 5 ||| at32 g0 0) ∧
    (g0.toNat ≤ 21 → g1.toNat ≤ 21 → g2.toNat ≤ 21 → g3.toNat ≤ 21 →
      exec (.dpSetDigits g0 g1 g2 g3) s = .next { s with
        dp := { s.dp with digits := { s0 := g0, s1 := g1, s2 := g2, s3 := g3 } }, res := 0, trace := [] }) ∧
    (22 ≤ g0.toNat ∨ 22 ≤ g1.toNat ∨ 22 ≤ g2.toNat ∨ 22 ≤ g3.toNat →
      exec (.dpSetDigits g0 g1 g2 g3) s =
        .refused (.reservedGlyph (0x42000000#32 ||| at32 g3 15 ||| at32 g2 10 ||| at32 g1 5 ||| at32 g0 0)))

/-- R174: `DP_SET_DP i, b` writes the decimal point of slot `i` alone and moves no pin. -/
def Obligations.DpSetDpWritesOnePoint : Prop :=
  ∀ (i : Slot) (b : Bool) (s : State),
    encode (.dpSetDp i b) = .command (0x43000000#32 ||| at32 (slotBits i) 8 ||| bit32 b 0) ∧
    ∃ a : Slots Bool,
      exec (.dpSetDp i b) s = .next { s with dp := { s.dp with dps := a }, res := 0, trace := [] } ∧
      a.get i = b ∧ ∀ j, j ≠ i → a.get j = s.dp.dps.get j

/-- R176: `DP_SET_DIGIT_ENABLED i, b` writes the enable of slot `i` alone; glyph and point keep their values. -/
def Obligations.DpSetDigitEnabledWritesOneEnable : Prop :=
  ∀ (i : Slot) (b : Bool) (s : State),
    encode (.dpSetDigitEnabled i b) = .command (0x45000000#32 ||| at32 (slotBits i) 8 ||| bit32 b 0) ∧
    ∃ a : Slots Bool,
      exec (.dpSetDigitEnabled i b) s = .next { s with dp := { s.dp with digitEnabled := a }, res := 0, trace := [] } ∧
      a.get i = b ∧ ∀ j, j ≠ i → a.get j = s.dp.digitEnabled.get j

/-- R175 and R177: the "all" setters write one boolean to all four slots of their array. -/
def Obligations.DpSetAllWritesEverySlot : Prop :=
  ∀ (b : Bool) (s : State),
    encode (.dpSetAllDps b) = .command (0x44000000#32 ||| bit32 b 0) ∧
    encode (.dpSetAllDigitsEnabled b) = .command (0x46000000#32 ||| bit32 b 0) ∧
    exec (.dpSetAllDps b) s = .next { s with
      dp := { s.dp with dps := { s0 := b, s1 := b, s2 := b, s3 := b } }, res := 0, trace := [] } ∧
    exec (.dpSetAllDigitsEnabled b) s = .next { s with
      dp := { s.dp with digitEnabled := { s0 := b, s1 := b, s2 := b, s3 := b } }, res := 0, trace := [] }

/-- R178: `DP_SET_ENABLED b` writes the master enable; the pins change only at the next update. -/
def Obligations.DpSetEnabledWritesMasterEnable : Prop :=
  ∀ (b : Bool) (s : State),
    encode (.dpSetEnabled b) = .command (0x47000000#32 ||| bit32 b 0) ∧
    exec (.dpSetEnabled b) s = .next { s with dp := { s.dp with enabled := b }, res := 0, trace := [] }

/-- `43_display_scanner.md` section 3: from a legal cursor, the n-th of a run of updates selects slot (cursor + n) mod 4 and
asserts exactly its digit-select line while the display is enabled. -/
def Obligations.UpdatesVisitSlotsRoundRobin : Prop :=
  ∀ (s : State) (n : Nat), s.dp.cursor.toNat ≤ 3 → s.dp.enabled = true →
    ∃ t, runOps (List.replicate (n + 1) .dpUpdate) s = .next t ∧
      t.dp.cursor.toNat = (s.dp.cursor.toNat + n + 1) % 4 ∧
      t.pins.digSel = BitVec.ofNat 4 (2 ^ ((s.dp.cursor.toNat + n + 1) % 4)) ∧
      t.dp = { s.dp with cursor := t.dp.cursor }

/-- `43_display_scanner.md` sections 1 and 3: no operation but `DP_UPDATE` changes a display pin. -/
def Obligations.OnlyDpUpdateMovesDisplayPins : Prop :=
  ∀ (i : Instr) (s t : State), i ≠ .dpUpdate → exec i s = .next t → t.pins = s.pins

/-- `30_encoding.md` section 2: at the glyph table rule R6 takes, the 22 named glyph codes have the listed patterns. -/
def Obligations.GlyphTableDrivesTheListedPatterns : Prop :=
  ∀ p : Config.Params, p.glyphSeg = Config.Params.taken.glyphSeg →
    (List.range 22).map (fun k => (glyphSeg p (BitVec.ofNat 5 k)).toNat) =
      [0x3F, 0x06, 0x5B, 0x4F, 0x66, 0x6D, 0x7D, 0x07, 0x7F, 0x6F, 0x40, 0x00,
       0x7C, 0x79, 0x38, 0x37, 0x54, 0x5C, 0x73, 0x50, 0x6D, 0x78]

/-! ### Unit RTC -/

/-- `44_rtc_engine.md` section 3 (R208): `RTC_READ_REG` runs one read transaction; the result is the byte its eight samples
assemble to. The level left on `rtc_io_out` (`idlePins`) is the MODEL's choice of log entry 20, R201 over R32. -/
def Obligations.RtcReadRegReturnsTheAnsweredByte : Prop :=
  ∀ (bank : Bool) (idx : BitVec 5) (s : State),
    encode (.rtcReadReg bank idx) = .command (0x51000000#32 ||| bit32 bank 13 ||| at32 idx 8) ∧
    ∃ b : Byte, assembles s.params.rtcBitOrder b s.env.rtcAnswer ∧
      exec (.rtcReadReg bank idx) s = .next { s with
        link := idlePins true
        res := BitVec.ofNat 32 b.toNat
        trace := readEvents s.params.rtcBitOrder bank idx s.env.rtcAnswer
        env := { s.env with rtcDraws := s.env.rtcDraws + 8 } }

/-- `44_rtc_engine.md` section 3 (R209): `RTC_WRITE_REG` runs one write transaction with the data byte; no register of the block
changes. The level left on `rtc_io_out` (`idlePins`) is the MODEL's choice of log entry 20, R201 over R32. -/
def Obligations.RtcWriteRegSendsTheByte : Prop :=
  ∀ (bank : Bool) (idx : BitVec 5) (data : Byte) (s : State),
    encode (.rtcWriteReg bank idx data) =
      .command (0x52000000#32 ||| bit32 bank 13 ||| at32 idx 8 ||| at32 data 0) ∧
    exec (.rtcWriteReg bank idx data) s = .next { s with
      link := idlePins (lastBit s.params.rtcBitOrder data), res := 0, trace := writeEvents s.params.rtcBitOrder bank idx data }

/-- `44_rtc_engine.md` section 3 (R210, R211 and R212): the field getters read one register and decode it under their tens mask.
The level left on `rtc_io_out` (`idlePins`) is the MODEL's choice of log entry 20, R201 over R32. -/
def Obligations.RtcFieldGettersDecodeTheRegister : Prop :=
  encode .rtcGetSeconds = .command 0x53000000#32 ∧ encode .rtcGetMinutes = .command 0x54000000#32 ∧
  encode .rtcGetHours = .command 0x55000000#32 ∧
  ReadsField .rtcGetSeconds 0 7 ∧ ReadsField .rtcGetMinutes 1 7 ∧ ReadsField .rtcGetHours 2 3

/-- `44_rtc_engine.md` section 3 (R214, R215 and R216): the field setters encode an admitted value, write the whole register, and
refuse the rest. The level left on `rtc_io_out` (`idlePins`) is the MODEL's choice of log entry 20, R201 over R32. -/
def Obligations.RtcFieldSettersEncodeAndWrite : Prop :=
  WritesField .rtcSetSeconds 0x56000000#32 0 59 ∧ WritesField .rtcSetMinutes 0x57000000#32 1 59 ∧
  WritesField .rtcSetHours 0x58000000#32 2 23

/-- `44_rtc_engine.md` section 3 (R217): `RTC_GET_TIME` reads hours, minutes and seconds in three transactions and gives the decoded
time unclamped. The level left on `rtc_io_out` (`idlePins`) is the MODEL's choice of log entry 20, R201 over R32. -/
def Obligations.RtcGetTimeReadsThreeFields : Prop :=
  encode .rtcGetTime = .command 0x59000000#32 ∧
  ∀ s : State, ∃ h m sec : Byte,
    assembles s.params.rtcBitOrder h s.env.rtcAnswer ∧ assembles s.params.rtcBitOrder m (fun k => s.env.rtcAnswer (8 + k)) ∧
    assembles s.params.rtcBitOrder sec (fun k => s.env.rtcAnswer (16 + k)) ∧
    exec .rtcGetTime s = .next { s with
      link := idlePins true
      res := BitVec.ofNat 32 (decoded h 3 * 65536 + decoded m 7 * 256 + decoded sec 7)
      trace := readEvents s.params.rtcBitOrder false 2 s.env.rtcAnswer ++ readEvents s.params.rtcBitOrder false 1 (fun k => s.env.rtcAnswer (8 + k)) ++
        readEvents s.params.rtcBitOrder false 0 (fun k => s.env.rtcAnswer (16 + k))
      env := { s.env with rtcDraws := s.env.rtcDraws + 24 } }

/-- `44_rtc_engine.md` section 3 (R218): `RTC_SET_TIME` writes hours, minutes and seconds in three transactions, and refuses an
out-of-range field before any pin event. The level left on `rtc_io_out` (`idlePins`) is the MODEL's choice of log entry 20,
R201 over R32. -/
def Obligations.RtcSetTimeWritesThreeFields : Prop :=
  ∀ (h m sec : Byte) (s : State),
    encode (.rtcSetTime h m sec) = .command (0x5A000000#32 ||| at32 h 16 ||| at32 m 8 ||| at32 sec 0) ∧
    (h.toNat ≤ 23 → m.toNat ≤ 59 → sec.toNat ≤ 59 →
      exec (.rtcSetTime h m sec) s = .next { s with
        link := idlePins (lastBit s.params.rtcBitOrder (encoded sec))
        res := 0
        trace := writeEvents s.params.rtcBitOrder false 2 (encoded h) ++ writeEvents s.params.rtcBitOrder false 1 (encoded m) ++
          writeEvents s.params.rtcBitOrder false 0 (encoded sec) }) ∧
    (23 < h.toNat ∨ 59 < m.toNat ∨ 59 < sec.toNat →
      exec (.rtcSetTime h m sec) s =
        .refused (.operandOutOfRange (0x5A000000#32 ||| at32 h 16 ||| at32 m 8 ||| at32 sec 0)))

/-- `44_rtc_engine.md` section 3 (R213): `RTC_INIT` clears write-protect, then reads the seconds and writes them back with bit 7
cleared, then reads the hours and writes them back through `rtc_force24`, which clears bit 7 where the configuration lists no other
result (log entry 17): five transactions, and no register of the block but the link pins changes. The level left on
`rtc_io_out` (`idlePins`) is the MODEL's choice of log entry 20, R201 over R32. -/
def Obligations.RtcInitRunsItsFiveTransactions : Prop :=
  encode .rtcInit = .command 0x50000000#32 ∧
  (∀ (p : Config.Params) (h : Byte), p.rtcForce24Except = [] → rtcForce24 p h = h &&& 0x7F#8) ∧
  ∀ s : State, ∃ sec h : Byte,
    assembles s.params.rtcBitOrder sec s.env.rtcAnswer ∧
    assembles s.params.rtcBitOrder h (fun k => s.env.rtcAnswer (8 + k)) ∧
    exec .rtcInit s = .next { s with
      link := idlePins (lastBit s.params.rtcBitOrder (rtcForce24 s.params h))
      res := 0
      trace := writeEvents s.params.rtcBitOrder false 7 0x00 ++
        readEvents s.params.rtcBitOrder false 0 s.env.rtcAnswer ++
        writeEvents s.params.rtcBitOrder false 0 (sec &&& 0x7F#8) ++
        readEvents s.params.rtcBitOrder false 2 (fun k => s.env.rtcAnswer (8 + k)) ++
        writeEvents s.params.rtcBitOrder false 2 (rtcForce24 s.params h)
      env := { s.env with rtcDraws := s.env.rtcDraws + 16 } }

/-- `30_encoding.md` section 2 and `44_rtc_engine.md` section 2, with the MODEL's choice of log entry 8: the two link rows are the
command bytes of rule R71, each has the meaning of the transaction that sends it, and the command word a host issues to have it
sent is that of `RTC_READ_REG` or `RTC_WRITE_REG` of the same address. The level left on `rtc_io_out` (`idlePins`) is the MODEL's
choice of log entry 20, R201 over R32. -/
def Obligations.LinkCommandBytesRunTheirTransaction : Prop :=
  ∀ (bank : Bool) (idx : BitVec 5) (data : Byte) (s : State),
    encode (.rtcLinkCmdRead bank idx) = .link (rtcCmd bank idx true) 0 ∧
    encode (.rtcLinkCmdWrite bank idx data) = .link (rtcCmd bank idx false) data ∧
    encode (.rtcReadReg bank idx) = .command (senderOfLinkByte (rtcCmd bank idx true)) ∧
    encode (.rtcWriteReg bank idx 0) = .command (senderOfLinkByte (rtcCmd bank idx false)) ∧
    (∃ b : Byte, assembles s.params.rtcBitOrder b s.env.rtcAnswer ∧
      exec (.rtcLinkCmdRead bank idx) s = .next { s with
        link := idlePins true
        res := BitVec.ofNat 32 b.toNat
        trace := readEvents s.params.rtcBitOrder bank idx s.env.rtcAnswer
        env := { s.env with rtcDraws := s.env.rtcDraws + 8 } }) ∧
    exec (.rtcLinkCmdWrite bank idx data) s = .next { s with
      link := idlePins (lastBit s.params.rtcBitOrder data), res := 0
      trace := writeEvents s.params.rtcBitOrder bank idx data }

/-- `44_rtc_engine.md` section 4: what an observer counts on the pins from an idle link: a write transaction has 89
events, 35 waits, one rise and one fall of chip-select, 16 rising clock edges and no sample; a read transaction 88, 34, 1,
1, 15 and 8. -/
def Obligations.TransactionsHaveTheStatedCounts : Prop :=
  ∀ (bank : Bool) (idx : BitVec 5) (data : Byte) (s t : State), s.link.idle = true →
    (exec (.rtcWriteReg bank idx data) s = .next t →
      t.trace.length = 89 ∧ waitCount t.trace = 35 ∧ sampledLevels t.trace = [] ∧
      edgeCount LinkPins.ce true s.link t.trace = 1 ∧ edgeCount LinkPins.ce false s.link t.trace = 1 ∧
      edgeCount LinkPins.sclk true s.link t.trace = 16) ∧
    (exec (.rtcReadReg bank idx) s = .next t →
      t.trace.length = 88 ∧ waitCount t.trace = 34 ∧
      sampledLevels t.trace = (List.range 8).map s.env.rtcAnswer ∧
      edgeCount LinkPins.ce true s.link t.trace = 1 ∧ edgeCount LinkPins.ce false s.link t.trace = 1 ∧
      edgeCount LinkPins.sclk true s.link t.trace = 15)

/-- `30_encoding.md` section 2 (bit order and edges): the bits the chip takes at rising clock edges while selected and driven
are, from an idle link, the command byte and then the data byte of a write, and the command byte alone of a read, each in the
configured bit order; the command byte is, from bit 7 down, `1`, bank, five index bits, direction. -/
def Obligations.WireCarriesCommandAndData : Prop :=
  ∀ (bank : Bool) (idx : BitVec 5) (data : Byte) (s t : State), s.link.idle = true →
    (exec (.rtcWriteReg bank idx data) s = .next t →
      bitsTaken s.link t.trace =
        onLine s.params.rtcBitOrder
          [true, bank, idx.getLsbD 4, idx.getLsbD 3, idx.getLsbD 2, idx.getLsbD 1, idx.getLsbD 0, false] ++
        onLine s.params.rtcBitOrder (bitsMsbFirst data)) ∧
    (exec (.rtcReadReg bank idx) s = .next t →
      bitsTaken s.link t.trace =
        onLine s.params.rtcBitOrder
          [true, bank, idx.getLsbD 4, idx.getLsbD 3, idx.getLsbD 2, idx.getLsbD 1, idx.getLsbD 0, true])

/-- `30_encoding.md` section 2: decoding an encoded time field gives it back, and the encoded byte has its flag bits 0. -/
def Obligations.BcdRoundTripsTimeFields : Prop :=
  ∀ v : Byte,
    (v.toNat ≤ 59 → unbcd (bcd v) tensMaskSixty = v ∧ (bcd v).getLsbD 7 = false) ∧
    (v.toNat ≤ 23 → unbcd (bcd v) tensMaskHours = v ∧ (bcd v).getLsbD 7 = false ∧ (bcd v).getLsbD 6 = false)

/-! ### The whole machine -/

/-- `30_encoding.md` sections 1 to 3: the decoder reads every encoded instruction back, with every operand. -/
def Obligations.DecodeReadsBackEveryEncoding : Prop :=
  ∀ i : Instr, decode (encode i) = .ok i

/-- `30_encoding.md` sections 3 and 4: a code the decoder accepts is the one code of the instruction it gives, so no bit
of a word is ignored. -/
def Obligations.EveryAcceptedCodeIsAnEncoding : Prop :=
  ∀ (c : Code) (i : Instr), decode c = .ok i → encode i = c

/-- Words of `95_test_vectors.md` TV1 decode to the operations they stand for. -/
def Obligations.WrittenOutWordsDecode : Prop :=
  decode (.command 0x1200FFFF#32) = .ok (.dbSetSamples 65535) ∧
  decode (.command 0x200C0008#32) = .ok (.calCalibrate 12 0 8) ∧
  decode (.command 0x3500000A#32) = .ok (.swSetThreshold 10) ∧
  decode (.command 0x4204880A#32) = .ok (.dpSetDigits 10 0 2 9) ∧
  decode (.command 0x520020A5#32) = .ok (.rtcWriteReg true 0 0xA5) ∧
  decode (.command 0x5A173B3B#32) = .ok (.rtcSetTime 23 59 59)

/-- `00_scope.md` section 4, with the MODEL's own input list of log entry 9: a step takes the command word the host hands over
next and, where it decodes to an instruction, is exec of that instruction on the state the word has been taken from. The two
link rows are no operations and no step takes them (log entry 8). -/
def Obligations.StepRunsTheDecodedInstruction : Prop :=
  ∀ (s : State) (cw : Word) (rest : List Input) (i : Instr),
    s.inputs = .issue cw :: rest → decode (.command cw) = .ok i → step s = exec i { s with inputs := rest }

/-- R254: a command word that is the word of no operation is refused, and the refusal records it. -/
def Obligations.StepRefusesReservedWords : Prop :=
  ∀ (s : State) (cw : Word) (rest : List Input),
    s.inputs = .issue cw :: rest → (∀ i : Instr, encode i ≠ .command cw) →
    step s = .refused (.reservedCommandWord cw)

/-- `70_reset_and_hazards.md` section 1, with the MODEL's own input list of log entry 9 and configuration record of log entry 1:
with nothing handed over the block waits, unchanged; at `rst` every register and pin takes the reset value of the block's
configuration, whatever it held. -/
def Obligations.StepWaitsAndResets : Prop :=
  ∀ s : State,
    (s.inputs = [] → step s = .next s) ∧
    (∀ rest, s.inputs = .rst :: rest → step s = .next { State.resetOf s.params with inputs := rest, env := s.env })

/-- `10_state.md` section 9: the reset table, for a block of any configuration; and the values `DB_INIT_VALUE`, `CAL_PREV_RESET`
and `CNT_W` have at the configuration rule R6 takes. -/
def Obligations.ResetLeavesTheTableValues : Prop :=
  (∀ p : Config.Params,
    (State.resetOf p).db = { debounceSamples := p.dbInitSamples, counter := 0, debouncedValue := p.dbInitValue } ∧
    (State.resetOf p).cal = { cyclesPerSecond := 0, cycles := 0, prevSeconds := p.calPrevReset } ∧
    (State.resetOf p).sw = { thresholdSamples := p.swInitThreshold, counter := 0, currentPressLength := 0,
                             lastPressLength := 0, waitingForRelease := false } ∧
    (∀ i : Slot, (State.resetOf p).dp.digits.get i = 11 ∧ (State.resetOf p).dp.dps.get i = false ∧
      (State.resetOf p).dp.digitEnabled.get i = true) ∧
    (State.resetOf p).dp.cursor = 0 ∧ (State.resetOf p).dp.enabled = true ∧
    (State.resetOf p).pins = { seg := 0, segDp := false, digSel := 0 } ∧
    (State.resetOf p).link = { ce := false, sclk := false, ioOe := false, ioOut := false } ∧
    (State.resetOf p).res = 0) ∧
  State.reset.db.debouncedValue = true ∧ State.reset.cal.prevSeconds = 0 ∧ State.reset.params.cntMax = 65535

/-- `10_state.md` section 9: the invariants (a) to (e) and (g) of the state and the widths of its registers survive every step,
from every state that has them, at every configuration; and no step changes the configuration. -/
def Obligations.StepKeepsTheStateInvariant : Prop :=
  ∀ s t : State, BlockInv s → step s = .next t → BlockInv t ∧ t.params = s.params

/-- `10_state.md` section 9: the state after reset has the invariants. -/
def Obligations.ResetHasTheStateInvariant : Prop := BlockInv State.reset

/-- `10_state.md` section 9, invariant (f): after `DP_UPDATE`, a slot that is not enabled shows no segment and no point. -/
def Obligations.BlankedSlotShowsNothing : Prop :=
  ∀ (s : State) (i : Slot), s.dp.digitEnabled.get i = false →
    (slotBits i).toNat = (if 4 ≤ s.dp.cursor.toNat + 1 then 0 else s.dp.cursor.toNat + 1) →
    ∃ t, exec .dpUpdate s = .next t ∧ t.pins.seg = 0 ∧ t.pins.segDp = false

/-- `10_state.md` section 1 and `20_memory.md` section 1: each unit's registers are written by that unit's operations only, except
that `SW_SAMPLE` writes the debouncer's; only RTC operations (and the link rows that are their transactions) reach the link; none
changes the configuration. -/
def Obligations.UnitsOwnTheirRegisters : Prop :=
  ∀ (i : Instr) (s t : State), exec i s = .next t →
    (i.unit ≠ .db → i ≠ .swSample → t.db = s.db) ∧
    (i.unit ≠ .cal → t.cal = s.cal) ∧
    (i.unit ≠ .sw → t.sw = s.sw) ∧
    (i.unit ≠ .dp → t.dp = s.dp ∧ t.pins = s.pins) ∧
    (i.unit ≠ .rtc → i.unit ≠ .link → t.link = s.link ∧ t.trace = []) ∧
    t.params = s.params

/-- `60_exceptions.md` section 1 with `30_encoding.md` section 4: an operation is refused exactly where rule R78 does not admit its
operands, and the refusal records its command word. -/
def Obligations.RefusesExactlyUnadmittedOperands : Prop :=
  ∀ (i : Instr) (s : State),
    (wellFormed s.params i = false → ∃ cw, encode i = .command cw ∧
      (exec i s = .refused (.operandOutOfRange cw) ∨ exec i s = .refused (.reservedGlyph cw))) ∧
    (wellFormed s.params i = true → ∀ r, exec i s ≠ .refused r)

/-- `60_exceptions.md` section 1: the only faults are the two divisions by zero, each with the divisor that is 0 and what it
records; in `SW_SAMPLE` the threshold and the counter are those the retune and the debouncer step leave, the counter counted once
more at a pressed sample. -/
def Obligations.FaultsOnlyOnDivisionByZero : Prop :=
  ∀ (i : Instr) (s : State) (f : Fault), exec i s = .fault f →
    (∃ m, i = .calLit m ∧ f = .litDivideByZero m s.cal.cyclesPerSecond ∧
      (m.toNat = 0 ∨ s.cal.cyclesPerSecond.toNat / m.toNat = 0)) ∨
    (i = .swPushLength ∧ f = .pushLengthDivideByZero s.sw.counter ∧
      s.sw.counter.toNat ≠ 0 ∧ s.sw.thresholdSamples.toNat = 0) ∨
    (i = .swSample ∧ ∃ u, u = sampledOnce (retuned s) ∧ u.sw.thresholdSamples.toNat = 0 ∧
      ((u.db.debouncedValue = false ∧ u.sw.waitingForRelease = false ∧ (countedOnce u.params u.sw).toNat ≠ 0 ∧
          f = .pushLengthDivideByZero (countedOnce u.params u.sw)) ∨
        (u.db.debouncedValue = true ∧ u.sw.counter.toNat ≠ 0 ∧ f = .pushLengthDivideByZero u.sw.counter)))

/-- `60_exceptions.md` section 1: every operation whose operands are admitted and which divides by nothing that is 0
completes, and no other does. -/
def Obligations.OperationCompletesExactlyWhenDefined : Prop :=
  ∀ (i : Instr) (s : State), (∃ t, exec i s = .next t) ↔ completes i s = true

/-- `10_state.md` section 8: the button line is sampled once by each `DB_SAMPLE` and `SW_SAMPLE` and at no other time, the
RTC data line eight times by each read transaction and at no other time; no operation touches what the host has still to
hand over. -/
def Obligations.EnvironmentIsSampledOnlyWhereStated : Prop :=
  ∀ (i : Instr) (s t : State), exec i s = .next t →
    t.env = { s.env with btnDraws := s.env.btnDraws + buttonSamplesOf i, rtcDraws := s.env.rtcDraws + 8 * readsOf i } ∧
    t.inputs = s.inputs

/-- `20_memory.md` section 1: what the RTC data line would answer has no influence on an operation of another unit. -/
def Obligations.RtcLineDoesNotInfluenceOtherUnits : Prop :=
  ∀ (i : Instr) (s t : State) (script : List Bool) (draws : Nat), i.unit ≠ .rtc → i.unit ≠ .link →
    exec i s = .next t →
    exec i { s with env := withRtcAnswers s.env script draws } =
      .next { t with env := withRtcAnswers t.env script draws }

/-- `20_memory.md` section 1: a command word whose step puts any event on the RTC link, or moves a pin of it, is the word of one of
the eleven RTC operations. -/
def Obligations.OnlyRtcOperationsReachTheLink : Prop :=
  ∀ (s t : State) (cw : Word) (rest : List Input), s.inputs = .issue cw :: rest → step s = .next t →
    t.trace ≠ [] ∨ t.link ≠ s.link → ∃ i, decode (.command cw) = .ok i ∧ i.unit = .rtc

/-- `20_memory.md` section 1: from an idle link, a command word whose step runs a transaction with the bank bit 1 is the word of
`RTC_READ_REG` or `RTC_WRITE_REG` with bank 1. -/
def Obligations.OnlyRawAccessReachesBankOne : Prop :=
  ∀ (s t : State) (cw : Word) (rest : List Input) (bits : List Bool), s.link.idle = true →
    s.inputs = .issue cw :: rest → step s = .next t →
    bits ∈ bitsByTransaction s.link none t.trace → bankBit s.params.rtcBitOrder bits = some true →
    (∃ idx, decode (.command cw) = .ok (.rtcReadReg true idx)) ∨
      ∃ idx data, decode (.command cw) = .ok (.rtcWriteReg true idx data)
end

