-- ==== Sys2Proof/Laws/Codec.lean ====
section
/-! SUPPORT. The bits of the encoder's words and of the decoder's fields, said once for each format. -/

namespace Sys2Proof

@[simp] theorem slotOfBits_slotBits (i : Slot) : slotOfBits (slotBits i) = i := by
  cases i <;> rfl

@[simp] theorem slotBits_slotOfBits (b : BitVec 2) : slotBits (slotOfBits b) = b := by
  revert b
  decide

/-- Bit `k` of a field is bit `lo + k` of the word. -/
theorem field_getLsbD (lo n : Nat) (cw : Word) (k : Nat) :
    (field lo n cw).getLsbD k = (decide (k < n) && cw.getLsbD (lo + k)) := by
  simp [field, BitVec.getLsbD_extractLsb']

/-- A field is zero exactly when each of its bits is 0. -/
theorem field_eq_zero_iff (lo n : Nat) (cw : Word) :
    field lo n cw = 0 ↔ ∀ k, k < n → cw.getLsbD (lo + k) = false := by
  constructor
  · intro h k hk
    have hb := field_getLsbD lo n cw k
    rw [h] at hb
    simpa [hk] using hb.symm
  · intro h
    apply BitVec.eq_of_getLsbD_eq
    intro k hk
    rw [field_getLsbD, h k hk]
    simp

/-- A bit inside a field that is zero is 0. -/
theorem getLsbD_of_field_zero {lo n : Nat} {cw : Word} (h : field lo n cw = 0) (k : Nat) (h1 : lo ≤ k) (h2 : k < lo + n) :
    cw.getLsbD k = false := by
  have hk := (field_eq_zero_iff lo n cw).1 h (k - lo) (by omega)
  rwa [Nat.add_sub_cancel' h1] at hk

theorem wordOf_getLsbD (opcode : Byte) (x : BitVec 24) (k : Nat) :
    (wordOf opcode x).getLsbD k = if k < 24 then x.getLsbD k else opcode.getLsbD (k - 24) :=
  BitVec.getLsbD_append

theorem operandsByte_getLsbD (v : Byte) (k : Nat) :
    (operandsByte v).getLsbD k = if k < 8 then v.getLsbD k else false := by
  refine (BitVec.getLsbD_append (x := 0#16) (y := v) (i := k)).trans ?_
  split <;> simp

theorem operandsIG_getLsbD (i : Slot) (g : GlyphCode) (k : Nat) :
    (operandsIG i g).getLsbD k =
      if k < 5 then g.getLsbD k else if k < 8 then false else if k < 10 then (slotBits i).getLsbD (k - 8) else false := by
  refine (BitVec.getLsbD_append (x := 0#14 ++ slotBits i ++ 0#3) (y := g) (i := k)).trans ?_
  simp only [BitVec.getLsbD_append, BitVec.getLsbD_zero, Nat.sub_sub]
  split_ifs <;> first | rfl | omega

theorem operandsG4_getLsbD (g0 g1 g2 g3 : GlyphCode) (k : Nat) :
    (operandsG4 g0 g1 g2 g3).getLsbD k =
      if k < 5 then g0.getLsbD k else if k < 10 then g1.getLsbD (k - 5) else if k < 15 then g2.getLsbD (k - 10)
      else if k < 20 then g3.getLsbD (k - 15) else false := by
  refine (BitVec.getLsbD_append (x := 0#4 ++ g3 ++ g2 ++ g1) (y := g0) (i := k)).trans ?_
  simp only [BitVec.getLsbD_append, BitVec.getLsbD_zero, Nat.sub_sub]
  split_ifs <;> first | rfl | omega

theorem operandsIB_getLsbD (i : Slot) (b : Bool) (k : Nat) :
    (operandsIB i b).getLsbD k =
      if k < 1 then b else if k < 8 then false else if k < 10 then (slotBits i).getLsbD (k - 8) else false := by
  refine (BitVec.getLsbD_append (x := 0#14 ++ slotBits i ++ 0#7) (y := BitVec.ofBool b) (i := k)).trans ?_
  simp only [BitVec.getLsbD_append, BitVec.getLsbD_zero, Nat.sub_sub]
  split_ifs <;> first | rfl | omega | (obtain rfl : k = 0 := (by omega); simp)

theorem operandsB_getLsbD (b : Bool) (k : Nat) :
    (operandsB b).getLsbD k = if k < 1 then b else false := by
  refine (BitVec.getLsbD_append (x := 0#23) (y := BitVec.ofBool b) (i := k)).trans ?_
  split
  · obtain rfl : k = 0 := by omega
    simp
  · simp

theorem operandsRA_getLsbD (bank : Bool) (idx : BitVec 5) (k : Nat) :
    (operandsRA bank idx).getLsbD k =
      if k < 8 then false else if k < 13 then idx.getLsbD (k - 8) else if k < 14 then bank else false := by
  refine (BitVec.getLsbD_append (x := 0#10 ++ BitVec.ofBool bank ++ idx) (y := 0#8) (i := k)).trans ?_
  simp only [BitVec.getLsbD_append, BitVec.getLsbD_zero, Nat.sub_sub]
  split_ifs <;> first | rfl | omega | (obtain rfl : k = 13 := (by omega); simp)

theorem operandsRW_getLsbD (bank : Bool) (idx : BitVec 5) (data : Byte) (k : Nat) :
    (operandsRW bank idx data).getLsbD k =
      if k < 8 then data.getLsbD k else if k < 13 then idx.getLsbD (k - 8) else if k < 14 then bank else false := by
  refine (BitVec.getLsbD_append (x := 0#10 ++ BitVec.ofBool bank ++ idx) (y := data) (i := k)).trans ?_
  simp only [BitVec.getLsbD_append, BitVec.getLsbD_zero, Nat.sub_sub]
  split_ifs <;> first | rfl | omega | (obtain rfl : k = 13 := (by omega); simp)

theorem operandsT_getLsbD (h m s : Byte) (k : Nat) :
    (operandsT h m s).getLsbD k =
      if k < 8 then s.getLsbD k else if k < 16 then m.getLsbD (k - 8) else h.getLsbD (k - 16) := by
  refine (BitVec.getLsbD_append (x := h ++ m) (y := s) (i := k)).trans ?_
  simp only [BitVec.getLsbD_append, Nat.sub_sub]
  split_ifs <;> first | rfl | omega

theorem linkByte_getLsbD (bank : Bool) (idx : BitVec 5) (rd : Bool) (k : Nat) (hk : k < 8) :
    (linkByte bank idx rd).getLsbD k =
      if k < 1 then rd else if k < 6 then idx.getLsbD (k - 1) else if k < 7 then bank else true := by
  refine (BitVec.getLsbD_append (x := 1#1 ++ BitVec.ofBool bank ++ idx) (y := BitVec.ofBool rd) (i := k)).trans ?_
  simp only [BitVec.getLsbD_append, Nat.sub_sub]
  split_ifs
  · obtain rfl : k = 0 := by omega
    simp
  all_goals try first | rfl | omega
  · obtain rfl : k = 6 := by omega
    simp
  · obtain rfl : k = 7 := by omega
    simp

/-- The opcode of a word is the opcode it was made of. -/
@[simp] theorem opcodeOf_wordOf (opcode : Byte) (x : BitVec 24) : opcodeOf (wordOf opcode x) = opcode := by
  apply BitVec.eq_of_getLsbD_eq
  intro k hk
  rw [opcodeOf, field_getLsbD, wordOf_getLsbD]
  simp [hk]

/-- A field below bit 24 of a word is that field of its operands. -/
theorem field_wordOf_getLsbD (lo n : Nat) (opcode : Byte) (x : BitVec 24) (h : lo + n ≤ 24) (k : Nat) :
    (field lo n (wordOf opcode x)).getLsbD k = (decide (k < n) && x.getLsbD (lo + k)) := by
  rw [field_getLsbD, wordOf_getLsbD]
  by_cases hk : k < n
  · simp [hk, show lo + k < 24 by omega]
  · simp [hk]

/-- A word is its opcode and its low 24 bits. -/
theorem wordOf_fields (cw : Word) : wordOf (opcodeOf cw) (field 0 24 cw) = cw := by
  apply BitVec.eq_of_getLsbD_eq
  intro k hk
  rw [wordOf_getLsbD, opcodeOf, field_getLsbD, field_getLsbD]
  split
  · simp [*]
  · simp [show k - 24 < 8 by omega, show 24 + (k - 24) = k by omega]

/-- A field of a word is zero exactly when those operand bits are. -/
theorem field_wordOf_zero (lo n : Nat) (opcode : Byte) (x : BitVec 24) (h : lo + n ≤ 24)
    (hz : ∀ k, lo ≤ k → k < lo + n → x.getLsbD k = false) : field lo n (wordOf opcode x) = 0 := by
  rw [field_eq_zero_iff]
  intro k hk
  rw [wordOf_getLsbD, if_pos (by omega), hz _ (by omega) (by omega)]

/-- A field of a word is `y` when its operand bits are those of `y`. -/
theorem field_wordOf_eq (lo n : Nat) (opcode : Byte) (x : BitVec 24) (y : BitVec n) (h : lo + n ≤ 24)
    (hy : ∀ k, k < n → x.getLsbD (lo + k) = y.getLsbD k) : field lo n (wordOf opcode x) = y := by
  apply BitVec.eq_of_getLsbD_eq
  intro k hk
  rw [field_wordOf_getLsbD _ _ _ _ h, hy k hk]
  simp [hk]

theorem flagField_wordOf (k : Nat) (opcode : Byte) (x : BitVec 24) (h : k < 24) :
    flagField k (wordOf opcode x) = x.getLsbD k := by
  rw [flagField, wordOf_getLsbD, if_pos h]

theorem ifZero_of_true {z : Bool} (h : z = true) (cw : Word) (i : Instr) : ifZero z cw i = .ok i := by
  simp [ifZero, h]

/-- What an accepted format check says: the must-be-zero bits are 0 and the instruction is the format's. -/
theorem ifZero_eq_ok {z : Bool} {cw : Word} {i j : Instr} (h : ifZero z cw i = .ok j) : z = true ∧ j = i := by
  cases z <;> simp_all [ifZero]

theorem formN_wordN (opcode : Byte) (i : Instr) : formN (wordN opcode) i = .ok i := by
  apply ifZero_of_true
  rw [wordN, field_wordOf_zero 0 24 _ _ (by omega) (by intro k _ _; exact BitVec.getLsbD_zero)]
  rfl

theorem formV_wordOf (opcode : Byte) (n : BitVec 24) (mk : BitVec 24 → Instr) :
    formV (wordOf opcode n) mk = .ok (mk n) := by
  rw [formV, field_wordOf_eq 0 24 _ _ n (by omega) (by intro k _; rw [Nat.zero_add])]

theorem formByte_wordByte (opcode v : Byte) (mk : Byte → Instr) : formByte (wordByte opcode v) mk = .ok (mk v) := by
  have hv : field 0 8 (wordByte opcode v) = v := by
    apply field_wordOf_eq 0 8 _ _ _ (by omega)
    intro k hk
    rw [operandsByte_getLsbD, Nat.zero_add, if_pos hk]
  have hz : field 8 16 (wordByte opcode v) = 0 := by
    apply field_wordOf_zero 8 16 _ _ (by omega)
    intro k h1 _
    rw [operandsByte_getLsbD, if_neg (by omega)]
  rw [formByte, hv]
  exact ifZero_of_true (by rw [hz]; rfl) _ _

theorem formIG_wordIG (opcode : Byte) (i : Slot) (g : GlyphCode) (mk : Slot → GlyphCode → Instr) :
    formIG (wordIG opcode i g) mk = .ok (mk i g) := by
  have hg : field 0 5 (wordIG opcode i g) = g := by
    apply field_wordOf_eq 0 5 _ _ _ (by omega)
    intro k hk
    rw [operandsIG_getLsbD, Nat.zero_add, if_pos hk]
  have hi : field 8 2 (wordIG opcode i g) = slotBits i := by
    apply field_wordOf_eq 8 2 _ _ _ (by omega)
    intro k hk
    rw [operandsIG_getLsbD, if_neg (by omega), if_neg (by omega), if_pos (by omega), Nat.add_sub_cancel_left]
  have h1 : field 10 14 (wordIG opcode i g) = 0 := by
    apply field_wordOf_zero 10 14 _ _ (by omega)
    intro k _ _
    rw [operandsIG_getLsbD, if_neg (by omega), if_neg (by omega), if_neg (by omega)]
  have h2 : field 5 3 (wordIG opcode i g) = 0 := by
    apply field_wordOf_zero 5 3 _ _ (by omega)
    intro k _ _
    rw [operandsIG_getLsbD, if_neg (by omega), if_pos (by omega)]
  rw [formIG, hg, hi, slotOfBits_slotBits]
  exact ifZero_of_true (by rw [h1, h2]; rfl) _ _

theorem formG4_wordG4 (opcode : Byte) (g0 g1 g2 g3 : GlyphCode)
    (mk : GlyphCode → GlyphCode → GlyphCode → GlyphCode → Instr) :
    formG4 (wordG4 opcode g0 g1 g2 g3) mk = .ok (mk g0 g1 g2 g3) := by
  have h0 : field 0 5 (wordG4 opcode g0 g1 g2 g3) = g0 := by
    apply field_wordOf_eq 0 5 _ _ _ (by omega)
    intro k hk
    rw [operandsG4_getLsbD, Nat.zero_add, if_pos hk]
  have h1 : field 5 5 (wordG4 opcode g0 g1 g2 g3) = g1 := by
    apply field_wordOf_eq 5 5 _ _ _ (by omega)
    intro k hk
    rw [operandsG4_getLsbD, if_neg (by omega), if_pos (by omega), Nat.add_sub_cancel_left]
  have h2 : field 10 5 (wordG4 opcode g0 g1 g2 g3) = g2 := by
    apply field_wordOf_eq 10 5 _ _ _ (by omega)
    intro k hk
    rw [operandsG4_getLsbD, if_neg (by omega), if_neg (by omega), if_pos (by omega), Nat.add_sub_cancel_left]
  have h3 : field 15 5 (wordG4 opcode g0 g1 g2 g3) = g3 := by
    apply field_wordOf_eq 15 5 _ _ _ (by omega)
    intro k hk
    rw [operandsG4_getLsbD, if_neg (by omega), if_neg (by omega), if_neg (by omega), if_pos (by omega),
      Nat.add_sub_cancel_left]
  have hz : field 20 4 (wordG4 opcode g0 g1 g2 g3) = 0 := by
    apply field_wordOf_zero 20 4 _ _ (by omega)
    intro k _ _
    rw [operandsG4_getLsbD, if_neg (by omega), if_neg (by omega), if_neg (by omega), if_neg (by omega)]
  rw [formG4, h0, h1, h2, h3]
  exact ifZero_of_true (by rw [hz]; rfl) _ _

theorem formIB_wordIB (opcode : Byte) (i : Slot) (b : Bool) (mk : Slot → Bool → Instr) :
    formIB (wordIB opcode i b) mk = .ok (mk i b) := by
  have hb : flagField 0 (wordIB opcode i b) = b := by
    rw [wordIB, flagField_wordOf _ _ _ (by omega), operandsIB_getLsbD, if_pos (by omega)]
  have hi : field 8 2 (wordIB opcode i b) = slotBits i := by
    apply field_wordOf_eq 8 2 _ _ _ (by omega)
    intro k hk
    rw [operandsIB_getLsbD, if_neg (by omega), if_neg (by omega), if_pos (by omega), Nat.add_sub_cancel_left]
  have h1 : field 10 14 (wordIB opcode i b) = 0 := by
    apply field_wordOf_zero 10 14 _ _ (by omega)
    intro k _ _
    rw [operandsIB_getLsbD, if_neg (by omega), if_neg (by omega), if_neg (by omega)]
  have h2 : field 1 7 (wordIB opcode i b) = 0 := by
    apply field_wordOf_zero 1 7 _ _ (by omega)
    intro k _ _
    rw [operandsIB_getLsbD, if_neg (by omega), if_pos (by omega)]
  rw [formIB, hb, hi, slotOfBits_slotBits]
  exact ifZero_of_true (by rw [h1, h2]; rfl) _ _

theorem formB_wordB (opcode : Byte) (b : Bool) (mk : Bool → Instr) : formB (wordB opcode b) mk = .ok (mk b) := by
  have hb : flagField 0 (wordB opcode b) = b := by
    rw [wordB, flagField_wordOf _ _ _ (by omega), operandsB_getLsbD, if_pos (by omega)]
  have hz : field 1 23 (wordB opcode b) = 0 := by
    apply field_wordOf_zero 1 23 _ _ (by omega)
    intro k _ _
    rw [operandsB_getLsbD, if_neg (by omega)]
  rw [formB, hb]
  exact ifZero_of_true (by rw [hz]; rfl) _ _

theorem formRA_wordRA (opcode : Byte) (bank : Bool) (idx : BitVec 5) (mk : Bool → BitVec 5 → Instr) :
    formRA (wordRA opcode bank idx) mk = .ok (mk bank idx) := by
  have hb : flagField 13 (wordRA opcode bank idx) = bank := by
    rw [wordRA, flagField_wordOf _ _ _ (by omega), operandsRA_getLsbD, if_neg (by omega), if_neg (by omega),
      if_pos (by omega)]
  have hi : field 8 5 (wordRA opcode bank idx) = idx := by
    apply field_wordOf_eq 8 5 _ _ _ (by omega)
    intro k hk
    rw [operandsRA_getLsbD, if_neg (by omega), if_pos (by omega), Nat.add_sub_cancel_left]
  have h1 : field 14 10 (wordRA opcode bank idx) = 0 := by
    apply field_wordOf_zero 14 10 _ _ (by omega)
    intro k _ _
    rw [operandsRA_getLsbD, if_neg (by omega), if_neg (by omega), if_neg (by omega)]
  have h2 : field 0 8 (wordRA opcode bank idx) = 0 := by
    apply field_wordOf_zero 0 8 _ _ (by omega)
    intro k _ _
    rw [operandsRA_getLsbD, if_pos (by omega)]
  rw [formRA, hb, hi]
  exact ifZero_of_true (by rw [h1, h2]; rfl) _ _

theorem formRW_wordRW (opcode : Byte) (bank : Bool) (idx : BitVec 5) (data : Byte) (mk : Bool → BitVec 5 → Byte → Instr) :
    formRW (wordRW opcode bank idx data) mk = .ok (mk bank idx data) := by
  have hb : flagField 13 (wordRW opcode bank idx data) = bank := by
    rw [wordRW, flagField_wordOf _ _ _ (by omega), operandsRW_getLsbD, if_neg (by omega), if_neg (by omega),
      if_pos (by omega)]
  have hi : field 8 5 (wordRW opcode bank idx data) = idx := by
    apply field_wordOf_eq 8 5 _ _ _ (by omega)
    intro k hk
    rw [operandsRW_getLsbD, if_neg (by omega), if_pos (by omega), Nat.add_sub_cancel_left]
  have hd : field 0 8 (wordRW opcode bank idx data) = data := by
    apply field_wordOf_eq 0 8 _ _ _ (by omega)
    intro k hk
    rw [operandsRW_getLsbD, Nat.zero_add, if_pos hk]
  have hz : field 14 10 (wordRW opcode bank idx data) = 0 := by
    apply field_wordOf_zero 14 10 _ _ (by omega)
    intro k _ _
    rw [operandsRW_getLsbD, if_neg (by omega), if_neg (by omega), if_neg (by omega)]
  rw [formRW, hb, hi, hd]
  exact ifZero_of_true (by rw [hz]; rfl) _ _

theorem formT_wordT (opcode h m s : Byte) (mk : Byte → Byte → Byte → Instr) :
    formT (wordT opcode h m s) mk = .ok (mk h m s) := by
  have hh : field 16 8 (wordT opcode h m s) = h := by
    apply field_wordOf_eq 16 8 _ _ _ (by omega)
    intro k hk
    rw [operandsT_getLsbD, if_neg (by omega), if_neg (by omega), Nat.add_sub_cancel_left]
  have hm : field 8 8 (wordT opcode h m s) = m := by
    apply field_wordOf_eq 8 8 _ _ _ (by omega)
    intro k hk
    rw [operandsT_getLsbD, if_neg (by omega), if_pos (by omega), Nat.add_sub_cancel_left]
  have hs : field 0 8 (wordT opcode h m s) = s := by
    apply field_wordOf_eq 0 8 _ _ _ (by omega)
    intro k hk
    rw [operandsT_getLsbD, Nat.zero_add, if_pos hk]
  rw [formT, hh, hm, hs]

/-- The five index bits of a link command byte. -/
theorem linkByte_idx (bank : Bool) (idx : BitVec 5) (rd : Bool) : (linkByte bank idx rd).extractLsb' 1 5 = idx := by
  apply BitVec.eq_of_getLsbD_eq
  intro k hk
  rw [BitVec.getLsbD_extractLsb', linkByte_getLsbD _ _ _ _ (by omega), if_neg (by omega), if_pos (by omega),
    Nat.add_sub_cancel_left]
  simp [hk]

/-- A word whose operand bits are those of `x` is the word of its opcode and `x`. -/
theorem eq_wordOf (cw : Word) (x : BitVec 24) (h : ∀ k, k < 24 → cw.getLsbD k = x.getLsbD k) :
    cw = wordOf (opcodeOf cw) x := by
  apply BitVec.eq_of_getLsbD_eq
  intro k hk
  rw [wordOf_getLsbD]
  split
  · exact h k (by omega)
  · rw [opcodeOf, field_getLsbD]
    simp [show k - 24 < 8 by omega, show 24 + (k - 24) = k by omega]

/-- An accepted word of format `N` has no operand bit set. -/
theorem formN_eq_ok {cw : Word} {i j : Instr} (h : formN cw i = .ok j) : j = i ∧ cw = wordN (opcodeOf cw) := by
  obtain ⟨hz, rfl⟩ := ifZero_eq_ok h
  simp only [beq_iff_eq] at hz
  refine ⟨rfl, eq_wordOf _ _ fun k hk => ?_⟩
  rw [getLsbD_of_field_zero hz k (by omega) (by omega)]
  exact BitVec.getLsbD_zero.symm

/-- A word of format `V` is its opcode and its count. -/
theorem formV_eq_ok {cw : Word} {mk : BitVec 24 → Instr} {j : Instr} (h : formV cw mk = .ok j) :
    j = mk (field 0 24 cw) ∧ cw = wordOf (opcodeOf cw) (field 0 24 cw) := by
  cases h
  exact ⟨rfl, (wordOf_fields cw).symm⟩

theorem formByte_eq_ok {cw : Word} {mk : Byte → Instr} {j : Instr} (h : formByte cw mk = .ok j) :
    j = mk (field 0 8 cw) ∧ cw = wordByte (opcodeOf cw) (field 0 8 cw) := by
  obtain ⟨hz, rfl⟩ := ifZero_eq_ok h
  simp only [beq_iff_eq] at hz
  refine ⟨rfl, eq_wordOf _ _ fun k hk => ?_⟩
  rw [operandsByte_getLsbD, field_getLsbD]
  split_ifs with h1
  · simp [h1]
  · exact getLsbD_of_field_zero hz k (by omega) (by omega)

theorem formIG_eq_ok {cw : Word} {mk : Slot → GlyphCode → Instr} {j : Instr} (h : formIG cw mk = .ok j) :
    j = mk (slotOfBits (field 8 2 cw)) (field 0 5 cw) ∧
      cw = wordIG (opcodeOf cw) (slotOfBits (field 8 2 cw)) (field 0 5 cw) := by
  obtain ⟨hz, rfl⟩ := ifZero_eq_ok h
  simp only [Bool.and_eq_true, beq_iff_eq] at hz
  refine ⟨rfl, eq_wordOf _ _ fun k hk => ?_⟩
  rw [operandsIG_getLsbD, slotBits_slotOfBits, field_getLsbD, field_getLsbD]
  split_ifs with h1 h2 h3
  · simp [h1]
  · exact getLsbD_of_field_zero hz.2 k (by omega) (by omega)
  · simp [show k - 8 < 2 by omega, show 8 + (k - 8) = k by omega]
  · exact getLsbD_of_field_zero hz.1 k (by omega) (by omega)

theorem formG4_eq_ok {cw : Word} {mk : GlyphCode → GlyphCode → GlyphCode → GlyphCode → Instr} {j : Instr}
    (h : formG4 cw mk = .ok j) :
    j = mk (field 0 5 cw) (field 5 5 cw) (field 10 5 cw) (field 15 5 cw) ∧
      cw = wordG4 (opcodeOf cw) (field 0 5 cw) (field 5 5 cw) (field 10 5 cw) (field 15 5 cw) := by
  obtain ⟨hz, rfl⟩ := ifZero_eq_ok h
  simp only [beq_iff_eq] at hz
  refine ⟨rfl, eq_wordOf _ _ fun k hk => ?_⟩
  rw [operandsG4_getLsbD, field_getLsbD, field_getLsbD, field_getLsbD, field_getLsbD]
  split_ifs with h1 h2 h3 h4
  · simp [h1]
  · simp [show k - 5 < 5 by omega, show 5 + (k - 5) = k by omega]
  · simp [show k - 10 < 5 by omega, show 10 + (k - 10) = k by omega]
  · simp [show k - 15 < 5 by omega, show 15 + (k - 15) = k by omega]
  · exact getLsbD_of_field_zero hz k (by omega) (by omega)

theorem formIB_eq_ok {cw : Word} {mk : Slot → Bool → Instr} {j : Instr} (h : formIB cw mk = .ok j) :
    j = mk (slotOfBits (field 8 2 cw)) (flagField 0 cw) ∧
      cw = wordIB (opcodeOf cw) (slotOfBits (field 8 2 cw)) (flagField 0 cw) := by
  obtain ⟨hz, rfl⟩ := ifZero_eq_ok h
  simp only [Bool.and_eq_true, beq_iff_eq] at hz
  refine ⟨rfl, eq_wordOf _ _ fun k hk => ?_⟩
  rw [operandsIB_getLsbD, slotBits_slotOfBits, field_getLsbD]
  split_ifs with h1 h2 h3
  · obtain rfl : k = 0 := by omega
    rfl
  · exact getLsbD_of_field_zero hz.2 k (by omega) (by omega)
  · simp [show k - 8 < 2 by omega, show 8 + (k - 8) = k by omega]
  · exact getLsbD_of_field_zero hz.1 k (by omega) (by omega)

theorem formB_eq_ok {cw : Word} {mk : Bool → Instr} {j : Instr} (h : formB cw mk = .ok j) :
    j = mk (flagField 0 cw) ∧ cw = wordB (opcodeOf cw) (flagField 0 cw) := by
  obtain ⟨hz, rfl⟩ := ifZero_eq_ok h
  simp only [beq_iff_eq] at hz
  refine ⟨rfl, eq_wordOf _ _ fun k hk => ?_⟩
  rw [operandsB_getLsbD]
  split_ifs with h1
  · obtain rfl : k = 0 := by omega
    rfl
  · exact getLsbD_of_field_zero hz k (by omega) (by omega)

theorem formRA_eq_ok {cw : Word} {mk : Bool → BitVec 5 → Instr} {j : Instr} (h : formRA cw mk = .ok j) :
    j = mk (flagField 13 cw) (field 8 5 cw) ∧ cw = wordRA (opcodeOf cw) (flagField 13 cw) (field 8 5 cw) := by
  obtain ⟨hz, rfl⟩ := ifZero_eq_ok h
  simp only [Bool.and_eq_true, beq_iff_eq] at hz
  refine ⟨rfl, eq_wordOf _ _ fun k hk => ?_⟩
  rw [operandsRA_getLsbD, field_getLsbD]
  split_ifs with h1 h2 h3
  · exact getLsbD_of_field_zero hz.2 k (by omega) (by omega)
  · simp [show k - 8 < 5 by omega, show 8 + (k - 8) = k by omega]
  · obtain rfl : k = 13 := by omega
    rfl
  · exact getLsbD_of_field_zero hz.1 k (by omega) (by omega)

theorem formRW_eq_ok {cw : Word} {mk : Bool → BitVec 5 → Byte → Instr} {j : Instr} (h : formRW cw mk = .ok j) :
    j = mk (flagField 13 cw) (field 8 5 cw) (field 0 8 cw) ∧
      cw = wordRW (opcodeOf cw) (flagField 13 cw) (field 8 5 cw) (field 0 8 cw) := by
  obtain ⟨hz, rfl⟩ := ifZero_eq_ok h
  simp only [beq_iff_eq] at hz
  refine ⟨rfl, eq_wordOf _ _ fun k hk => ?_⟩
  rw [operandsRW_getLsbD, field_getLsbD, field_getLsbD]
  split_ifs with h1 h2 h3
  · simp [h1]
  · simp [show k - 8 < 5 by omega, show 8 + (k - 8) = k by omega]
  · obtain rfl : k = 13 := by omega
    rfl
  · exact getLsbD_of_field_zero hz k (by omega) (by omega)

theorem formT_eq_ok {cw : Word} {mk : Byte → Byte → Byte → Instr} {j : Instr} (h : formT cw mk = .ok j) :
    j = mk (field 16 8 cw) (field 8 8 cw) (field 0 8 cw) ∧
      cw = wordT (opcodeOf cw) (field 16 8 cw) (field 8 8 cw) (field 0 8 cw) := by
  cases h
  refine ⟨rfl, eq_wordOf _ _ fun k hk => ?_⟩
  rw [operandsT_getLsbD, field_getLsbD, field_getLsbD, field_getLsbD]
  split_ifs with h1 h2
  · simp [h1]
  · simp [show k - 8 < 8 by omega, show 8 + (k - 8) = k by omega]
  · simp [show k - 16 < 8 by omega, show 16 + (k - 16) = k by omega]

/-- A byte whose bit 7 is 1 is the link command byte of its fields. -/
theorem eq_linkByte (cmd : Byte) (h : cmd.getLsbD 7 = true) :
    cmd = linkByte (cmd.getLsbD 6) (cmd.extractLsb' 1 5) (cmd.getLsbD 0) := by
  apply BitVec.eq_of_getLsbD_eq
  intro k hk
  rw [linkByte_getLsbD _ _ _ _ hk, BitVec.getLsbD_extractLsb']
  split_ifs with h1 h2 h3
  · obtain rfl : k = 0 := by omega
    rfl
  · simp [show k - 1 < 5 by omega, show 1 + (k - 1) = k by omega]
  · obtain rfl : k = 6 := by omega
    rfl
  · obtain rfl : k = 7 := by omega
    exact h

end Sys2Proof
end

