-- ==== Sys2Proof/Laws/State.lean ====
section
/-! SUPPORT. One lemma per field per named update of State, so that no later proof unfolds a record update. -/

namespace Sys2Proof.Machine

@[simp] theorem State.begin_db (s : State) : s.begin.db = s.db := rfl
@[simp] theorem State.begin_cal (s : State) : s.begin.cal = s.cal := rfl
@[simp] theorem State.begin_sw (s : State) : s.begin.sw = s.sw := rfl
@[simp] theorem State.begin_dp (s : State) : s.begin.dp = s.dp := rfl
@[simp] theorem State.begin_pins (s : State) : s.begin.pins = s.pins := rfl
@[simp] theorem State.begin_link (s : State) : s.begin.link = s.link := rfl
@[simp] theorem State.begin_res (s : State) : s.begin.res = 0 := rfl
@[simp] theorem State.begin_trace (s : State) : s.begin.trace = [] := rfl
@[simp] theorem State.begin_inputs (s : State) : s.begin.inputs = s.inputs := rfl
@[simp] theorem State.begin_env (s : State) : s.begin.env = s.env := rfl
@[simp] theorem State.begin_params (s : State) : s.begin.params = s.params := rfl

@[simp] theorem State.result_db (v : Word) (s : State) : (s.result v).db = s.db := rfl
@[simp] theorem State.result_cal (v : Word) (s : State) : (s.result v).cal = s.cal := rfl
@[simp] theorem State.result_sw (v : Word) (s : State) : (s.result v).sw = s.sw := rfl
@[simp] theorem State.result_dp (v : Word) (s : State) : (s.result v).dp = s.dp := rfl
@[simp] theorem State.result_pins (v : Word) (s : State) : (s.result v).pins = s.pins := rfl
@[simp] theorem State.result_link (v : Word) (s : State) : (s.result v).link = s.link := rfl
@[simp] theorem State.result_res (v : Word) (s : State) : (s.result v).res = v := rfl
@[simp] theorem State.result_trace (v : Word) (s : State) : (s.result v).trace = s.trace := rfl
@[simp] theorem State.result_inputs (v : Word) (s : State) : (s.result v).inputs = s.inputs := rfl
@[simp] theorem State.result_env (v : Word) (s : State) : (s.result v).env = s.env := rfl
@[simp] theorem State.result_params (v : Word) (s : State) : (s.result v).params = s.params := rfl

@[simp] theorem State.resultBool_db (b : Bool) (s : State) : (s.resultBool b).db = s.db := rfl
@[simp] theorem State.resultBool_cal (b : Bool) (s : State) : (s.resultBool b).cal = s.cal := rfl
@[simp] theorem State.resultBool_sw (b : Bool) (s : State) : (s.resultBool b).sw = s.sw := rfl
@[simp] theorem State.resultBool_dp (b : Bool) (s : State) : (s.resultBool b).dp = s.dp := rfl
@[simp] theorem State.resultBool_pins (b : Bool) (s : State) : (s.resultBool b).pins = s.pins := rfl
@[simp] theorem State.resultBool_link (b : Bool) (s : State) : (s.resultBool b).link = s.link := rfl
@[simp] theorem State.resultBool_res (b : Bool) (s : State) : (s.resultBool b).res = (BitVec.ofBool b).setWidth 32 := rfl
@[simp] theorem State.resultBool_trace (b : Bool) (s : State) : (s.resultBool b).trace = s.trace := rfl
@[simp] theorem State.resultBool_inputs (b : Bool) (s : State) : (s.resultBool b).inputs = s.inputs := rfl
@[simp] theorem State.resultBool_env (b : Bool) (s : State) : (s.resultBool b).env = s.env := rfl
@[simp] theorem State.resultBool_params (b : Bool) (s : State) : (s.resultBool b).params = s.params := rfl

@[simp] theorem State.resultZext_db {n : Nat} (v : BitVec n) (s : State) : (s.resultZext v).db = s.db := rfl
@[simp] theorem State.resultZext_cal {n : Nat} (v : BitVec n) (s : State) : (s.resultZext v).cal = s.cal := rfl
@[simp] theorem State.resultZext_sw {n : Nat} (v : BitVec n) (s : State) : (s.resultZext v).sw = s.sw := rfl
@[simp] theorem State.resultZext_dp {n : Nat} (v : BitVec n) (s : State) : (s.resultZext v).dp = s.dp := rfl
@[simp] theorem State.resultZext_pins {n : Nat} (v : BitVec n) (s : State) : (s.resultZext v).pins = s.pins := rfl
@[simp] theorem State.resultZext_link {n : Nat} (v : BitVec n) (s : State) : (s.resultZext v).link = s.link := rfl
@[simp] theorem State.resultZext_res {n : Nat} (v : BitVec n) (s : State) : (s.resultZext v).res = v.setWidth 32 := rfl
@[simp] theorem State.resultZext_trace {n : Nat} (v : BitVec n) (s : State) : (s.resultZext v).trace = s.trace := rfl
@[simp] theorem State.resultZext_inputs {n : Nat} (v : BitVec n) (s : State) : (s.resultZext v).inputs = s.inputs := rfl
@[simp] theorem State.resultZext_env {n : Nat} (v : BitVec n) (s : State) : (s.resultZext v).env = s.env := rfl
@[simp] theorem State.resultZext_params {n : Nat} (v : BitVec n) (s : State) : (s.resultZext v).params = s.params := rfl

@[simp] theorem State.btnSampled_db (s : State) : s.btnSampled.db = s.db := rfl
@[simp] theorem State.btnSampled_cal (s : State) : s.btnSampled.cal = s.cal := rfl
@[simp] theorem State.btnSampled_sw (s : State) : s.btnSampled.sw = s.sw := rfl
@[simp] theorem State.btnSampled_dp (s : State) : s.btnSampled.dp = s.dp := rfl
@[simp] theorem State.btnSampled_pins (s : State) : s.btnSampled.pins = s.pins := rfl
@[simp] theorem State.btnSampled_link (s : State) : s.btnSampled.link = s.link := rfl
@[simp] theorem State.btnSampled_res (s : State) : s.btnSampled.res = s.res := rfl
@[simp] theorem State.btnSampled_trace (s : State) : s.btnSampled.trace = s.trace := rfl
@[simp] theorem State.btnSampled_inputs (s : State) : s.btnSampled.inputs = s.inputs := rfl
@[simp] theorem State.btnSampled_env (s : State) : s.btnSampled.env = { s.env with btnDraws := s.env.btnDraws + 1 } := rfl
@[simp] theorem State.btnSampled_params (s : State) : s.btnSampled.params = s.params := rfl

@[simp] theorem State.debounce_db (s : State) : s.debounce.db = s.db.sample s.params s.btnNow := rfl
@[simp] theorem State.debounce_cal (s : State) : s.debounce.cal = s.cal := rfl
@[simp] theorem State.debounce_sw (s : State) : s.debounce.sw = s.sw := rfl
@[simp] theorem State.debounce_dp (s : State) : s.debounce.dp = s.dp := rfl
@[simp] theorem State.debounce_pins (s : State) : s.debounce.pins = s.pins := rfl
@[simp] theorem State.debounce_link (s : State) : s.debounce.link = s.link := rfl
@[simp] theorem State.debounce_res (s : State) : s.debounce.res = s.res := rfl
@[simp] theorem State.debounce_trace (s : State) : s.debounce.trace = s.trace := rfl
@[simp] theorem State.debounce_inputs (s : State) : s.debounce.inputs = s.inputs := rfl
@[simp] theorem State.debounce_env (s : State) : s.debounce.env = { s.env with btnDraws := s.env.btnDraws + 1 } := rfl
@[simp] theorem State.debounce_params (s : State) : s.debounce.params = s.params := rfl

@[simp] theorem State.retune_cal (s : State) : s.retune.cal = s.cal := by unfold State.retune; split <;> rfl
@[simp] theorem State.retune_dp (s : State) : s.retune.dp = s.dp := by unfold State.retune; split <;> rfl
@[simp] theorem State.retune_pins (s : State) : s.retune.pins = s.pins := by unfold State.retune; split <;> rfl
@[simp] theorem State.retune_link (s : State) : s.retune.link = s.link := by unfold State.retune; split <;> rfl
@[simp] theorem State.retune_res (s : State) : s.retune.res = s.res := by unfold State.retune; split <;> rfl
@[simp] theorem State.retune_trace (s : State) : s.retune.trace = s.trace := by unfold State.retune; split <;> rfl
@[simp] theorem State.retune_inputs (s : State) : s.retune.inputs = s.inputs := by unfold State.retune; split <;> rfl
@[simp] theorem State.retune_env (s : State) : s.retune.env = s.env := by unfold State.retune; split <;> rfl
@[simp] theorem State.retune_params (s : State) : s.retune.params = s.params := by unfold State.retune; split <;> rfl

@[simp] theorem State.emit_db (e : PinEvent) (s : State) : (s.emit e).db = s.db := rfl
@[simp] theorem State.emit_cal (e : PinEvent) (s : State) : (s.emit e).cal = s.cal := rfl
@[simp] theorem State.emit_sw (e : PinEvent) (s : State) : (s.emit e).sw = s.sw := rfl
@[simp] theorem State.emit_dp (e : PinEvent) (s : State) : (s.emit e).dp = s.dp := rfl
@[simp] theorem State.emit_pins (e : PinEvent) (s : State) : (s.emit e).pins = s.pins := rfl
@[simp] theorem State.emit_link (e : PinEvent) (s : State) : (s.emit e).link = s.link.apply e := rfl
@[simp] theorem State.emit_res (e : PinEvent) (s : State) : (s.emit e).res = s.res := rfl
@[simp] theorem State.emit_trace (e : PinEvent) (s : State) : (s.emit e).trace = s.trace ++ [e] := rfl
@[simp] theorem State.emit_inputs (e : PinEvent) (s : State) : (s.emit e).inputs = s.inputs := rfl
@[simp] theorem State.emit_env (e : PinEvent) (s : State) : (s.emit e).env = s.env := rfl
@[simp] theorem State.emit_params (e : PinEvent) (s : State) : (s.emit e).params = s.params := rfl

@[simp] theorem State.emitSample_db (s : State) : s.emitSample.db = s.db := rfl
@[simp] theorem State.emitSample_cal (s : State) : s.emitSample.cal = s.cal := rfl
@[simp] theorem State.emitSample_sw (s : State) : s.emitSample.sw = s.sw := rfl
@[simp] theorem State.emitSample_dp (s : State) : s.emitSample.dp = s.dp := rfl
@[simp] theorem State.emitSample_pins (s : State) : s.emitSample.pins = s.pins := rfl
@[simp] theorem State.emitSample_link (s : State) : s.emitSample.link = s.link := rfl
@[simp] theorem State.emitSample_res (s : State) : s.emitSample.res = s.res := rfl
@[simp] theorem State.emitSample_trace (s : State) : s.emitSample.trace = s.trace ++ [.sample s.rtcNow] := rfl
@[simp] theorem State.emitSample_inputs (s : State) : s.emitSample.inputs = s.inputs := rfl
@[simp] theorem State.emitSample_env (s : State) : s.emitSample.env = { s.env with rtcDraws := s.env.rtcDraws + 1 } := rfl
@[simp] theorem State.emitSample_params (s : State) : s.emitSample.params = s.params := rfl

@[simp] theorem State.takeReset_db (s : State) (rest : List Input) : (s.takeReset rest).db = (State.resetOf s.params).db := rfl
@[simp] theorem State.takeReset_cal (s : State) (rest : List Input) : (s.takeReset rest).cal = (State.resetOf s.params).cal := rfl
@[simp] theorem State.takeReset_sw (s : State) (rest : List Input) : (s.takeReset rest).sw = (State.resetOf s.params).sw := rfl
@[simp] theorem State.takeReset_dp (s : State) (rest : List Input) : (s.takeReset rest).dp = (State.resetOf s.params).dp := rfl
@[simp] theorem State.takeReset_pins (s : State) (rest : List Input) : (s.takeReset rest).pins = (State.resetOf s.params).pins := rfl
@[simp] theorem State.takeReset_link (s : State) (rest : List Input) : (s.takeReset rest).link = (State.resetOf s.params).link := rfl
@[simp] theorem State.takeReset_res (s : State) (rest : List Input) : (s.takeReset rest).res = (State.resetOf s.params).res := rfl
@[simp] theorem State.takeReset_trace (s : State) (rest : List Input) : (s.takeReset rest).trace = (State.resetOf s.params).trace := rfl
@[simp] theorem State.takeReset_inputs (s : State) (rest : List Input) : (s.takeReset rest).inputs = rest := rfl
@[simp] theorem State.takeReset_env (s : State) (rest : List Input) : (s.takeReset rest).env = s.env := rfl
@[simp] theorem State.takeReset_params (s : State) (rest : List Input) : (s.takeReset rest).params = s.params := rfl

@[simp] theorem Debouncer.pressed_eq (d : Debouncer) : d.pressed = !d.debouncedValue := rfl

@[simp] theorem Slots.get_set_self {α : Type} (a : Slots α) (i : Slot) (v : α) : (a.set i v).get i = v := by
  cases i <;> rfl

theorem Slots.get_set_of_ne {α : Type} (a : Slots α) (i j : Slot) (v : α) (h : j ≠ i) : (a.set i v).get j = a.get j := by
  cases i <;> cases j <;> first | rfl | exact absurd rfl h

@[simp] theorem Slots.get_all {α : Type} (v : α) (i : Slot) : (Slots.all v).get i = v := by
  cases i <;> rfl

end Sys2Proof.Machine
end

