-- ==== Sys2Proof/Laws/Link.lean ====
section
/-! SUPPORT. What each RTC link primitive does, said once: the events it emits, the pins it leaves, the answers it takes. -/

namespace Sys2Proof.Machine

@[simp] theorem State.emitAll_nil (s : State) : s.emitAll [] = s := rfl

@[simp] theorem State.emitAll_cons (e : PinEvent) (es : List PinEvent) (s : State) :
    s.emitAll (e :: es) = (s.emit e).emitAll es := rfl

theorem State.emitAll_append (es fs : List PinEvent) (s : State) : s.emitAll (es ++ fs) = (s.emitAll es).emitAll fs := by
  induction es generalizing s with
  | nil => rfl
  | cons e es ih => exact ih (s.emit e)

/-- Emitting a list changes the link pins and the trace only. -/
theorem State.emitAll_eq (es : List PinEvent) (s : State) :
    s.emitAll es = { s with link := es.foldl LinkPins.apply s.link, trace := s.trace ++ es } := by
  induction es generalizing s with
  | nil => simp
  | cons e es ih => simp [ih]

theorem State.txnStart_eq (s : State) : s.txnStart = s.emitAll startEvents := rfl

theorem State.txnClose_eq (s : State) : s.txnClose = s.emitAll closeEvents := rfl

theorem State.shiftOutBit_eq (v : Bool) (s : State) :
    s.shiftOutBit v = s.emitAll [.sclk false, .io v, .wait, .sclk true, .wait] := rfl

/-- `shift_out(byte)` emits the events of rule R203. -/
theorem State.shiftOut_eq (byte : Byte) (s : State) : s.shiftOut byte = s.emitAll (outEvents s.params.rtcBitOrder byte) := rfl

/-- The write transaction emits the events of rule R205 and leaves the link idle with the last data bit on `rtc_io_out`. -/
theorem State.memWrite_eq (bank : Bool) (idx : BitVec 5) (data : Byte) (s : State) :
    s.memWrite bank idx data =
      { s with link := { ce := false, sclk := false, ioOe := false, ioOut := data.getLsbD (bitpos s.params.rtcBitOrder 7) },
               trace := s.trace ++ writeEvents s.params.rtcBitOrder bank idx data } := by
  have h : s.memWrite bank idx data = s.emitAll (writeEvents s.params.rtcBitOrder bank idx data) := by
    rw [writeEvents, State.emitAll_append, State.emitAll_append, State.emitAll_append]
    rfl
  rw [h, State.emitAll_eq]
  rfl

/-- Opening a read emits the events before the first sample and releases the data line. -/
theorem State.readOpened_eq (bank : Bool) (idx : BitVec 5) (s : State) :
    s.readOpened bank idx = s.emitAll (startEvents ++ outEvents s.params.rtcBitOrder (rtcCmd bank idx true) ++ [.oe false]) := by
  rw [State.emitAll_append, State.emitAll_append]
  rfl

@[simp] theorem Env.rtcAnswer_advance (e : Env) (n k : Nat) :
    Env.rtcAnswer { e with rtcDraws := e.rtcDraws + n } k = e.rtcAnswer (n + k) := by
  simp [Env.rtcAnswer, Nat.add_assoc]

@[simp] theorem Env.btnAnswer_advance (e : Env) (n k : Nat) :
    Env.btnAnswer { e with btnDraws := e.btnDraws + n } k = e.btnAnswer (n + k) := by
  simp [Env.btnAnswer, Nat.add_assoc]

/-- `shift_in()` takes the next eight answers, assembles them as rule R75 says, and leaves the clock low (rule R204). -/
theorem State.shiftIn_eq (s : State) :
    s.shiftIn =
      (receivedByte s.params.rtcBitOrder s.env.rtcAnswer,
        { s with link := { s.link with sclk := false }, trace := s.trace ++ inEvents s.env.rtcAnswer,
                 env := { s.env with rtcDraws := s.env.rtcDraws + 8 } }) := by
  simp [State.shiftIn, bitIndices, State.shiftInFrom, State.riseAfterSample, State.fallBeforeSample, receivedByte, inEvents,
    State.emitSample, State.rtcNow, State.emit, LinkPins.apply, Env.rtcAnswer, Nat.add_assoc]

/-- The read transaction emits the events of rule R206, assembles the next eight answers, and leaves the link idle with the
direction bit of the command on `rtc_io_out`. -/
theorem State.memRead_eq (bank : Bool) (idx : BitVec 5) (s : State) :
    s.memRead bank idx =
      (receivedByte s.params.rtcBitOrder s.env.rtcAnswer,
        { s with link := { ce := false, sclk := false, ioOe := false,
                           ioOut := (rtcCmd bank idx true).getLsbD (bitpos s.params.rtcBitOrder 7) },
                 trace := s.trace ++ readEvents s.params.rtcBitOrder bank idx s.env.rtcAnswer,
                 env := { s.env with rtcDraws := s.env.rtcDraws + 8 } }) := by
  simp only [State.memRead, State.readOpened_eq, State.shiftIn_eq, State.txnClose_eq, State.emitAll_eq, readEvents,
    List.append_assoc]
  rfl

end Sys2Proof.Machine
end

