-- ==== Sys2Proof/Laws/Ops.lean ====
section
/-! SUPPORT. What each shared operation over registers does, said once. -/

namespace Sys2Proof.Machine

open Config (Params)

/-- A counter has at least two values (rule R6). -/
theorem Params.two_le_cntValues (p : Params) : 2 ≤ p.cntValues := by
  have h := Nat.pow_le_pow_right (show 0 < 2 by decide) p.cntW.2.1
  simpa [Params.cntValues] using h

/-- A counter of `CNT_W` bits fits its register (rule R6). -/
theorem Params.cntValues_le (p : Params) : p.cntValues ≤ 2 ^ 24 :=
  Nat.pow_le_pow_right (by decide) p.cntW.2.2

/-- `CNT_MAX` is the last value of a counter (rule R6). -/
theorem Params.cntMax_add_one (p : Params) : p.cntMax + 1 = p.cntValues := by
  have h := Params.two_le_cntValues p
  simp only [Params.cntMax]
  omega

/-- `sat_inc` stops at `CNT_MAX` (rule R8). -/
theorem satInc_toNat (p : Params) (c : Count) : (satInc p c).toNat = min (c.toNat + 1) p.cntMax := by
  have h := Params.cntValues_le p
  have h1 := Params.cntMax_add_one p
  rw [satInc, BitVec.toNat_ofNat]
  exact Nat.mod_eq_of_lt (by omega)

/-- The saturating counter of a press is never 0. -/
theorem satInc_ne_zero (p : Params) (c : Count) : satInc p c ≠ 0 := by
  intro h
  have e := satInc_toNat p c
  have h1 := Params.two_le_cntValues p
  have h2 := Params.cntMax_add_one p
  rw [h, BitVec.ofNat_eq_ofNat, BitVec.toNat_ofNat, Nat.zero_mod] at e
  omega

/-- A value reduced to `CNT_W` bits fits its register (rule R8). -/
theorem ofNat_mod_cntValues_toNat (p : Params) (n : Nat) : (BitVec.ofNat 24 (n % p.cntValues)).toNat = n % p.cntValues := by
  have h := Params.cntValues_le p
  have h1 := Nat.mod_lt n (show 0 < p.cntValues by have := Params.two_le_cntValues p; omega)
  rw [BitVec.toNat_ofNat]
  exact Nat.mod_eq_of_lt (by omega)

/-- `wrap_inc` wraps to 0 (rule R8). -/
theorem wrapInc_toNat (p : Params) (c : Count) : (wrapInc p c).toNat = (c.toNat + 1) % p.cntValues :=
  ofNat_mod_cntValues_toNat p _

/-- `wrap_inc` keeps a counter within `CNT_W` bits. -/
theorem wrapInc_le (p : Params) (c : Count) : (wrapInc p c).toNat ≤ p.cntMax := by
  have h := Nat.mod_lt (c.toNat + 1) (show 0 < p.cntValues by have := Params.two_le_cntValues p; omega)
  have h1 := Params.cntMax_add_one p
  rw [wrapInc_toNat]
  omega

/-- `ms_to_cycles` as rule R126 writes it. -/
theorem msToCycles_toNat (p : Params) (ms : Nat) (cps : Count) :
    (msToCycles p ms cps).toNat = ms * cps.toNat / 1000 % p.cntValues :=
  ofNat_mod_cntValues_toNat p _

/-- `ms_to_cycles` gives a threshold within `CNT_W` bits. -/
theorem msToCycles_le (p : Params) (ms : Nat) (cps : Count) : (msToCycles p ms cps).toNat ≤ p.cntMax := by
  have h := Nat.mod_lt (ms * cps.toNat / 1000) (show 0 < p.cntValues by have := Params.two_le_cntValues p; omega)
  have h1 := Params.cntMax_add_one p
  rw [msToCycles_toNat]
  omega

/-- The configuration of rule R6 with its 16-bit thresholds is admitted. -/
theorem Params.taken_admitted : Params.taken.admitted = true := by
  have h1 : (Config.dbInitSamples.setWidth 24).toNat = Config.dbInitSamples.toNat :=
    BitVec.toNat_setWidth_of_le (by decide)
  have h2 : (Config.swInitThreshold.setWidth 24).toNat = Config.swInitThreshold.toNat :=
    BitVec.toNat_setWidth_of_le (by decide)
  have h3 := Config.dbInitSamples.isLt
  have h4 := Config.swInitThreshold.isLt
  have h5 : Params.taken.cntMax = 65535 := by decide
  simp only [Params.admitted, decide_eq_true_eq, h5]
  simp only [Params.taken, h1, h2]
  omega

/-- An agreeing sample clears the counter and nothing else (rule R101). -/
theorem Debouncer.sample_agree (p : Params) (d : Debouncer) : d.sample p d.debouncedValue = { d with counter := 0 } := by
  simp [Debouncer.sample]

/-- A disagreeing sample that exceeds the threshold is accepted (rule R101). -/
theorem Debouncer.sample_accept (p : Params) (d : Debouncer)
    (h : d.debounceSamples.toNat < (wrapInc p d.counter).toNat) :
    d.sample p (!d.debouncedValue) = { d with counter := 0, debouncedValue := !d.debouncedValue } := by
  simp [Debouncer.sample, h]

/-- A disagreeing sample that does not exceed the threshold is counted (rule R101). -/
theorem Debouncer.sample_count (p : Params) (d : Debouncer) (h : (wrapInc p d.counter).toNat ≤ d.debounceSamples.toNat) :
    d.sample p (!d.debouncedValue) = { d with counter := wrapInc p d.counter } := by
  simp [Debouncer.sample, Nat.not_lt.2 h]

/-- The three things a debouncer step can do (rule R101). -/
theorem Debouncer.sample_cases (p : Params) (d : Debouncer) (raw : Bool) :
    (raw = d.debouncedValue ∧ d.sample p raw = { d with counter := 0 }) ∨
      (raw ≠ d.debouncedValue ∧ d.debounceSamples.toNat < (wrapInc p d.counter).toNat ∧
        d.sample p raw = { d with counter := 0, debouncedValue := raw }) ∨
      (raw ≠ d.debouncedValue ∧ (wrapInc p d.counter).toNat ≤ d.debounceSamples.toNat ∧
        d.sample p raw = { d with counter := wrapInc p d.counter }) := by
  by_cases h : raw = d.debouncedValue
  · exact .inl ⟨h, by simp [Debouncer.sample, h]⟩
  · by_cases h2 : d.debounceSamples.toNat < (wrapInc p d.counter).toNat
    · exact .inr (.inl ⟨h, h2, by simp [Debouncer.sample, h, h2]⟩)
    · exact .inr (.inr ⟨h, Nat.not_lt.1 h2, by simp [Debouncer.sample, h, h2]⟩)

/-- Nothing counted: the length is 0 (rule R147). -/
theorem Classifier.pushLength_zero (c : Classifier) (h : c.counter = 0) : c.pushLength = .ok 0 := by
  rw [Classifier.pushLength, if_pos h]

/-- A press counted against a zero threshold: fault F2 (rules R147 and R253). -/
theorem Classifier.pushLength_fault (c : Classifier) (h : c.counter ≠ 0) (ht : c.thresholdSamples = 0) :
    c.pushLength = .error (.pushLengthDivideByZero c.counter) := by
  rw [Classifier.pushLength, if_neg h, if_pos ht]

/-- A press counted against a threshold: `counter div threshold + 1` (rule R147). -/
theorem Classifier.pushLength_quotient (c : Classifier) (h : c.counter ≠ 0) (ht : c.thresholdSamples ≠ 0) :
    c.pushLength = .ok (BitVec.ofNat 25 (c.counter.toNat / c.thresholdSamples.toNat + 1)) := by
  rw [Classifier.pushLength, if_neg h, if_neg ht]

/-- A length always fits `LEN_W` bits (rule R147). -/
theorem lengthOf_toNat (counter threshold : Count) :
    (BitVec.ofNat 25 (counter.toNat / threshold.toNat + 1)).toNat = counter.toNat / threshold.toNat + 1 := by
  have h := counter.isLt
  have hd := Nat.div_le_self counter.toNat threshold.toNat
  rw [BitVec.toNat_ofNat]
  apply Nat.mod_eq_of_lt
  omega

/-- The next cursor value as a number (rule R171). -/
theorem nextCursor_toNat (c : BitVec 3) : (nextCursor c).toNat = if 4 ≤ c.toNat + 1 then 0 else c.toNat + 1 := by
  revert c
  decide

/-- No update leaves the cursor above 3 (rule R26). -/
theorem nextCursor_le (c : BitVec 3) : (nextCursor c).toNat ≤ 3 := by
  revert c
  decide

/-- The digit-select pins an update drives are one-hot or zero (rule R179). -/
theorem Display.drive_oneHot (p : Params) (d : Display) (c : BitVec 3) (h : c.toNat ≤ 3) : (d.drive p c).oneHot = true := by
  have hc : ∀ c : BitVec 3, c.toNat ≤ 3 → ∀ b : Bool,
      (DisplayPins.mk 0 false (if b then 1#4 <<< c.toNat else 0)).oneHot = true := by decide
  exact hc c h d.enabled

/-- A transaction of either kind leaves the link idle (rule R201). -/
theorem State.memWrite_idle (bank : Bool) (idx : BitVec 5) (data : Byte) (s : State) :
    (s.memWrite bank idx data).link.idle = true := by
  rw [State.memWrite_eq]
  rfl

theorem State.memRead_idle (bank : Bool) (idx : BitVec 5) (s : State) : (s.memRead bank idx).2.link.idle = true := by
  rw [State.memRead_eq]
  rfl

/-- What step 3 of `SW_SAMPLE` leaves at a pressed sample, when it has a value (rule R141). -/
theorem Classifier.countPress_cases (p : Params) (c c' : Classifier) (h : c.countPress p = .ok c') :
    (c.waitingForRelease = true ∧ c' = c) ∨
      (c.waitingForRelease = false ∧ c.thresholdSamples ≠ 0 ∧ c'.counter = satInc p c.counter ∧
        c'.currentPressLength.toNat =
          max c.currentPressLength.toNat ((satInc p c.counter).toNat / c.thresholdSamples.toNat + 1) ∧
        c'.lastPressLength = c.lastPressLength ∧ c'.waitingForRelease = false ∧
        c'.thresholdSamples = c.thresholdSamples) := by
  cases hw : c.waitingForRelease with
  | true =>
    rw [Classifier.countPress, if_pos hw] at h
    cases h
    exact .inl ⟨rfl, rfl⟩
  | false =>
    rw [Classifier.countPress, if_neg (by simp [hw])] at h
    by_cases ht : c.thresholdSamples = 0
    · rw [Classifier.pushLength_fault { c with counter := satInc p c.counter } (satInc_ne_zero _ _) ht] at h
      cases h
    · refine .inr ⟨rfl, ht, ?_⟩
      have hl := lengthOf_toNat (satInc p c.counter) c.thresholdSamples
      rw [Classifier.pushLength_quotient { c with counter := satInc p c.counter } (satInc_ne_zero _ _) ht] at h
      dsimp only at h
      split at h <;> cases h
      · exact ⟨rfl, by simp only; omega, rfl, hw, rfl⟩
      · exact ⟨rfl, by simp only; omega, rfl, hw, rfl⟩

/-- What step 3 of `SW_SAMPLE` leaves at an unpressed sample, when it has a value (rule R141). -/
theorem Classifier.release_cases (c c' : Classifier) (h : c.release = .ok c') :
    c'.counter = 0 ∧ c'.currentPressLength = 0 ∧ c'.waitingForRelease = false ∧
      c'.thresholdSamples = c.thresholdSamples ∧
      ((c.counter = 0 ∧ c'.lastPressLength = c.lastPressLength) ∨
        (c.counter ≠ 0 ∧ c.thresholdSamples ≠ 0 ∧
          c'.lastPressLength.toNat = c.counter.toNat / c.thresholdSamples.toNat + 1)) := by
  by_cases hc : c.counter = 0
  · rw [Classifier.release, if_pos hc] at h
    cases h
    exact ⟨rfl, rfl, rfl, rfl, .inl ⟨hc, rfl⟩⟩
  · rw [Classifier.release, if_neg hc] at h
    by_cases ht : c.thresholdSamples = 0
    · rw [Classifier.pushLength_fault c hc ht] at h
      cases h
    · rw [Classifier.pushLength_quotient c hc ht] at h
      cases h
      exact ⟨rfl, rfl, rfl, rfl, .inr ⟨hc, ht, lengthOf_toNat _ _⟩⟩

/-- A run of no operation. -/
@[simp] theorem runOps_nil (s : State) : runOps [] s = .next s := rfl

/-- A run whose first operation completes goes on from where it leaves the block. -/
theorem runOps_cons_next (i : Instr) (is : List Instr) (s t : State) (h : exec i s = .next t) :
    runOps (i :: is) s = runOps is t := by
  simp [runOps, h]

/-- A run of two lists is the run of the second from where the first leaves the block. -/
theorem runOps_append_next (is js : List Instr) (s t : State) (h : runOps is s = .next t) :
    runOps (is ++ js) s = runOps js t := by
  induction is generalizing s with
  | nil => simp_all [runOps]
  | cons i is ih =>
    simp only [List.cons_append, runOps] at *
    cases hx : exec i s with
    | next u => rw [hx] at h; exact ih u h
    | fault f => rw [hx] at h; cases h
    | refused r => rw [hx] at h; cases h

end Sys2Proof.Machine
end

