-- ==== Sys2Proof/Laws/PerInstr.lean ====
section
/-! SUPPORT. Per-instruction families: one lemma per constructor of Instr. -/

namespace Sys2Proof.Laws

/-- The opcode `cw[31:24]` that rule R76's map gives an instruction; for the two link rows the bits rule R71 fixes
(`cmd & 0x81`). -/
def tableOpcode : Instr → Byte
  | .dbSample => 0x10
  | .dbGet => 0x11
  | .dbSetSamples _ => 0x12
  | .calCalibrate _ _ _ => 0x20
  | .calCalibrated => 0x21
  | .calCps => 0x22
  | .calLit _ => 0x23
  | .calReset => 0x24
  | .swSample => 0x30
  | .swPushLength => 0x31
  | .swReportCurrent => 0x32
  | .swReportLast => 0x33
  | .swResetPressState => 0x34
  | .swSetThreshold _ => 0x35
  | .dpUpdate => 0x40
  | .dpSetDigit _ _ => 0x41
  | .dpSetDigits _ _ _ _ => 0x42
  | .dpSetDp _ _ => 0x43
  | .dpSetAllDps _ => 0x44
  | .dpSetDigitEnabled _ _ => 0x45
  | .dpSetAllDigitsEnabled _ => 0x46
  | .dpSetEnabled _ => 0x47
  | .rtcInit => 0x50
  | .rtcReadReg _ _ => 0x51
  | .rtcWriteReg _ _ _ => 0x52
  | .rtcGetSeconds => 0x53
  | .rtcGetMinutes => 0x54
  | .rtcGetHours => 0x55
  | .rtcSetSeconds _ => 0x56
  | .rtcSetMinutes _ => 0x57
  | .rtcSetHours _ => 0x58
  | .rtcGetTime => 0x59
  | .rtcSetTime _ _ _ => 0x5A
  | .rtcLinkCmdRead _ _ => 0x81
  | .rtcLinkCmdWrite _ _ _ => 0x80

/-- The encoder gives an instruction the opcode of its row. -/
def TableOpcode.Statement (i : Instr) : Prop :=
  match encode i with
  | .command cw => opcodeOf cw = tableOpcode i
  | .link cmd _ => cmd.getLsbD 7 = true ∧ cmd.getLsbD 0 = (tableOpcode i).getLsbD 0

theorem TableOpcode.dbSample : TableOpcode.Statement .dbSample := opcodeOf_wordOf _ _

theorem TableOpcode.dbGet : TableOpcode.Statement .dbGet := opcodeOf_wordOf _ _

theorem TableOpcode.dbSetSamples (n : BitVec 24) : TableOpcode.Statement (.dbSetSamples n) := opcodeOf_wordOf _ _

theorem TableOpcode.calCalibrate (hours : Byte) (minutes : Byte) (seconds : Byte) :
    TableOpcode.Statement (.calCalibrate hours minutes seconds) := opcodeOf_wordOf _ _

theorem TableOpcode.calCalibrated : TableOpcode.Statement .calCalibrated := opcodeOf_wordOf _ _

theorem TableOpcode.calCps : TableOpcode.Statement .calCps := opcodeOf_wordOf _ _

theorem TableOpcode.calLit (modulo : Byte) : TableOpcode.Statement (.calLit modulo) := opcodeOf_wordOf _ _

theorem TableOpcode.calReset : TableOpcode.Statement .calReset := opcodeOf_wordOf _ _

theorem TableOpcode.swSample : TableOpcode.Statement .swSample := opcodeOf_wordOf _ _

theorem TableOpcode.swPushLength : TableOpcode.Statement .swPushLength := opcodeOf_wordOf _ _

theorem TableOpcode.swReportCurrent : TableOpcode.Statement .swReportCurrent := opcodeOf_wordOf _ _

theorem TableOpcode.swReportLast : TableOpcode.Statement .swReportLast := opcodeOf_wordOf _ _

theorem TableOpcode.swResetPressState : TableOpcode.Statement .swResetPressState := opcodeOf_wordOf _ _

theorem TableOpcode.swSetThreshold (n : BitVec 24) : TableOpcode.Statement (.swSetThreshold n) := opcodeOf_wordOf _ _

theorem TableOpcode.dpUpdate : TableOpcode.Statement .dpUpdate := opcodeOf_wordOf _ _

theorem TableOpcode.dpSetDigit (i : Slot) (g : GlyphCode) : TableOpcode.Statement (.dpSetDigit i g) := opcodeOf_wordOf _ _

theorem TableOpcode.dpSetDigits (g0 : GlyphCode) (g1 : GlyphCode) (g2 : GlyphCode) (g3 : GlyphCode) :
    TableOpcode.Statement (.dpSetDigits g0 g1 g2 g3) := opcodeOf_wordOf _ _

theorem TableOpcode.dpSetDp (i : Slot) (b : Bool) : TableOpcode.Statement (.dpSetDp i b) := opcodeOf_wordOf _ _

theorem TableOpcode.dpSetAllDps (b : Bool) : TableOpcode.Statement (.dpSetAllDps b) := opcodeOf_wordOf _ _

theorem TableOpcode.dpSetDigitEnabled (i : Slot) (b : Bool) : TableOpcode.Statement (.dpSetDigitEnabled i b) :=
  opcodeOf_wordOf _ _

theorem TableOpcode.dpSetAllDigitsEnabled (b : Bool) : TableOpcode.Statement (.dpSetAllDigitsEnabled b) :=
  opcodeOf_wordOf _ _

theorem TableOpcode.dpSetEnabled (b : Bool) : TableOpcode.Statement (.dpSetEnabled b) := opcodeOf_wordOf _ _

theorem TableOpcode.rtcInit : TableOpcode.Statement .rtcInit := opcodeOf_wordOf _ _

theorem TableOpcode.rtcReadReg (bank : Bool) (idx : BitVec 5) : TableOpcode.Statement (.rtcReadReg bank idx) :=
  opcodeOf_wordOf _ _

theorem TableOpcode.rtcWriteReg (bank : Bool) (idx : BitVec 5) (data : Byte) :
    TableOpcode.Statement (.rtcWriteReg bank idx data) := opcodeOf_wordOf _ _

theorem TableOpcode.rtcGetSeconds : TableOpcode.Statement .rtcGetSeconds := opcodeOf_wordOf _ _

theorem TableOpcode.rtcGetMinutes : TableOpcode.Statement .rtcGetMinutes := opcodeOf_wordOf _ _

theorem TableOpcode.rtcGetHours : TableOpcode.Statement .rtcGetHours := opcodeOf_wordOf _ _

theorem TableOpcode.rtcSetSeconds (v : Byte) : TableOpcode.Statement (.rtcSetSeconds v) := opcodeOf_wordOf _ _

theorem TableOpcode.rtcSetMinutes (v : Byte) : TableOpcode.Statement (.rtcSetMinutes v) := opcodeOf_wordOf _ _

theorem TableOpcode.rtcSetHours (v : Byte) : TableOpcode.Statement (.rtcSetHours v) := opcodeOf_wordOf _ _

theorem TableOpcode.rtcGetTime : TableOpcode.Statement .rtcGetTime := opcodeOf_wordOf _ _

theorem TableOpcode.rtcSetTime (hours : Byte) (minutes : Byte) (seconds : Byte) :
    TableOpcode.Statement (.rtcSetTime hours minutes seconds) := opcodeOf_wordOf _ _

theorem TableOpcode.rtcLinkCmdRead (bank : Bool) (idx : BitVec 5) : TableOpcode.Statement (.rtcLinkCmdRead bank idx) := by
  constructor <;> rw [linkByte_getLsbD _ _ _ _ (by omega)] <;> simp [tableOpcode]

theorem TableOpcode.rtcLinkCmdWrite (bank : Bool) (idx : BitVec 5) (data : Byte) :
    TableOpcode.Statement (.rtcLinkCmdWrite bank idx data) := by
  constructor <;> rw [linkByte_getLsbD _ _ _ _ (by omega)] <;> simp [tableOpcode]

end Sys2Proof.Laws
end

