-- ==== Sys2Proof/Tests/Slice0.lean ====
section
/-! SUPPORT. Tests: each expected value is taken from `95_test_vectors.md` (TV, TR, S, P) or worked from the cited rule; and a
concrete witness for every statement that has hypotheses. -/

namespace Sys2Proof.Tests

open Sys2Proof Sys2Proof.Machine Sys2Proof.Machine.Claims

/-! ### Helpers -/

/-- The next state of an outcome, if it is one. -/
def nextOf (o : Host.Outcome State Fault Refusal) : Option State :=
  match o with
  | .next t => some t
  | _ => none

/-- The fault of an outcome, if it is one. -/
def faultOf (o : Host.Outcome State Fault Refusal) : Option Fault :=
  match o with
  | .fault f => some f
  | _ => none

/-- The refusal of an outcome, if it is one. -/
def refusalIn (o : Host.Outcome State Fault Refusal) : Option Refusal :=
  match o with
  | .refused r => some r
  | _ => none

/-- A value read from the next state. -/
def seen {α : Type} (f : State → α) (o : Host.Outcome State Fault Refusal) : Option α := (nextOf o).map f

/-- The reset state with the debouncer's registers given. -/
def withDb (samples counter : Nat) (value : Bool) (s : State) : State :=
  { s with db := { debounceSamples := BitVec.ofNat 24 samples, counter := BitVec.ofNat 24 counter, debouncedValue := value } }

/-- The calibrator's registers given. -/
def withCal (cps cycles prev : Nat) (s : State) : State :=
  { s with cal := ⟨BitVec.ofNat 24 cps, BitVec.ofNat 24 cycles, BitVec.ofNat 8 prev⟩ }

/-- The classifier's registers given. -/
def withSw (threshold counter current last : Nat) (waiting : Bool) (s : State) : State :=
  { s with sw := { thresholdSamples := BitVec.ofNat 24 threshold, counter := BitVec.ofNat 24 counter,
                   currentPressLength := BitVec.ofNat 25 current, lastPressLength := BitVec.ofNat 25 last,
                   waitingForRelease := waiting } }

/-- The display with these digits, points and enables, at this cursor. -/
def withDp (digits : Slots GlyphCode) (dps enables : Slots Bool) (cursor : BitVec 3) (on : Bool) (s : State) : State :=
  { s with dp := { digits := digits, dps := dps, digitEnabled := enables, cursor := cursor, enabled := on } }

/-- The levels the button line will answer. -/
def answering (levels : List Bool) (s : State) : State := { s with env := { s.env with btnScript := levels } }

/-- The bytes the chip will answer, in the block's bit order. -/
def reading (bytes : List Byte) (s : State) : State :=
  { s with env := { s.env with rtcScript := bytes.flatMap fun b => onLine s.params.rtcBitOrder (bitsMsbFirst b) } }

/-- The command word handed over next. -/
def issuing (cw : Word) (s : State) : State := { s with inputs := .issue cw :: s.inputs }

/-- The same registers in a block of another configuration. -/
def configured (p : Config.Params) (s : State) : State := { s with params := p }

/-- Rule R6's configuration with the two retune times given. -/
def times (debounceMs unitMs : Fin 1001) : Config.Params := { Config.Params.taken with debounceMs := debounceMs, unitMs := unitMs }

/-- Rule R6's configuration with `CNT_W` = 8. -/
def eightBit : Config.Params := { Config.Params.taken with cntW := ⟨8, by decide⟩ }

/-- Rule R6's configuration with `CNT_W` = 24, the widest. -/
def widest : Config.Params := { Config.Params.taken with cntW := ⟨24, by decide⟩ }

/-- Rule R6's configuration with bit 0 first on the RTC data line. -/
def lsbFirst : Config.Params := { Config.Params.taken with rtcBitOrder := .lsbFirst }

/-- The start of the vectors: debounce threshold 0, duration unit 10, uncalibrated, nothing pressed. -/
def start : State := withSw 10 0 0 0 false (withDb 0 0 true State.reset)

/-- The debouncer's registers as the vectors write them. -/
def dbTuple (s : State) : Nat × Bool := (s.db.counter.toNat, s.db.debouncedValue)

/-- The calibrator's registers as the vectors write them. -/
def calTuple (s : State) : Nat × Nat × Nat := (s.cal.cyclesPerSecond.toNat, s.cal.cycles.toNat, s.cal.prevSeconds.toNat)

/-- The classifier's registers as the vectors write them. -/
def swTuple (s : State) : Nat × Nat × Nat × Bool :=
  (s.sw.counter.toNat, s.sw.currentPressLength.toNat, s.sw.lastPressLength.toNat, s.sw.waitingForRelease)

/-- The display's output tuple as the vectors write it. -/
def dpTuple (s : State) : Nat × Nat × Bool × Nat :=
  (s.dp.cursor.toNat, s.pins.seg.toNat, s.pins.segDp, s.pins.digSel.toNat)

/-- The bytes a chip takes from an operation's trace. -/
def wireBits (s : State) : List Bool := bitsTaken (idlePins false) s.trace

/-- The opcode of a code that is a command word. -/
def opcodeIfCommand : Code → Option Byte
  | .command cw => some (opcodeOf cw)
  | .link _ _ => none

/-! ### WellFormed: an ill-formed operand for each check of rule R78 -/

theorem test_wf_samples_above_max : wellFormed Config.Params.taken (.dbSetSamples 65536) = false := by decide
theorem test_wf_samples_max : wellFormed Config.Params.taken (.dbSetSamples 65535) = true := by decide
theorem test_wf_threshold_above_max : wellFormed Config.Params.taken (.swSetThreshold 16777215) = false := by decide
theorem test_wf_samples_eight_bit : wellFormed eightBit (.dbSetSamples 256) = false := by decide
theorem test_wf_samples_widest : wellFormed widest (.dbSetSamples 16777215) = true := by decide
theorem test_wf_glyph_reserved : wellFormed Config.Params.taken (.dpSetDigit .s0 22) = false := by decide
theorem test_wf_glyph_last : wellFormed Config.Params.taken (.dpSetDigit .s0 21) = true := by decide
theorem test_wf_glyph0_reserved : wellFormed Config.Params.taken (.dpSetDigits 22 0 0 0) = false := by decide
theorem test_wf_glyph1_reserved : wellFormed Config.Params.taken (.dpSetDigits 0 22 0 0) = false := by decide
theorem test_wf_glyph2_reserved : wellFormed Config.Params.taken (.dpSetDigits 0 0 31 0) = false := by decide
theorem test_wf_glyph3_reserved : wellFormed Config.Params.taken (.dpSetDigits 0 0 0 22) = false := by decide
theorem test_wf_seconds : wellFormed Config.Params.taken (.rtcSetSeconds 60) = false := by decide
theorem test_wf_minutes : wellFormed Config.Params.taken (.rtcSetMinutes 60) = false := by decide
theorem test_wf_hours : wellFormed Config.Params.taken (.rtcSetHours 24) = false := by decide
theorem test_wf_time_hours : wellFormed Config.Params.taken (.rtcSetTime 24 0 0) = false := by decide
theorem test_wf_time_minutes : wellFormed Config.Params.taken (.rtcSetTime 0 60 0) = false := by decide
theorem test_wf_time_seconds : wellFormed Config.Params.taken (.rtcSetTime 0 0 60) = false := by decide
theorem test_wf_time_last : wellFormed Config.Params.taken (.rtcSetTime 23 59 59) = true := by decide

/-! ### Decode: a word of every row, written out (TV1 and the rules' own examples; link bytes from TV60) -/

theorem test_decode_db_sample : decode (.command 0x10000000#32) = .ok .dbSample := by decide
theorem test_decode_db_get : decode (.command 0x11000000#32) = .ok .dbGet := by decide
theorem test_decode_db_set_samples : decode (.command 0x1200FFFF#32) = .ok (.dbSetSamples 65535) := by decide
theorem test_decode_cal_calibrate : decode (.command 0x200C0008#32) = .ok (.calCalibrate 12 0 8) := by decide
theorem test_decode_cal_calibrated : decode (.command 0x21000000#32) = .ok .calCalibrated := by decide
theorem test_decode_cal_cps : decode (.command 0x22000000#32) = .ok .calCps := by decide
theorem test_decode_cal_lit : decode (.command 0x230000FF#32) = .ok (.calLit 255) := by decide
theorem test_decode_cal_reset : decode (.command 0x24000000#32) = .ok .calReset := by decide
theorem test_decode_sw_sample : decode (.command 0x30000000#32) = .ok .swSample := by decide
theorem test_decode_sw_push_length : decode (.command 0x31000000#32) = .ok .swPushLength := by decide
theorem test_decode_sw_report_current : decode (.command 0x32000000#32) = .ok .swReportCurrent := by decide
theorem test_decode_sw_report_last : decode (.command 0x33000000#32) = .ok .swReportLast := by decide
theorem test_decode_sw_reset : decode (.command 0x34000000#32) = .ok .swResetPressState := by decide
theorem test_decode_sw_set_threshold : decode (.command 0x350001F4#32) = .ok (.swSetThreshold 500) := by decide
theorem test_decode_dp_update : decode (.command 0x40000000#32) = .ok .dpUpdate := by decide
theorem test_decode_dp_set_digit : decode (.command 0x41000315#32) = .ok (.dpSetDigit .s3 21) := by decide
theorem test_decode_dp_set_digits : decode (.command 0x4204880A#32) = .ok (.dpSetDigits 10 0 2 9) := by decide
theorem test_decode_dp_set_digits_letters : decode (.command 0x4207CE30#32) = .ok (.dpSetDigits 16 17 19 15) := by decide
theorem test_decode_dp_set_dp : decode (.command 0x43000101#32) = .ok (.dpSetDp .s1 true) := by decide
theorem test_decode_dp_set_all_dps : decode (.command 0x44000001#32) = .ok (.dpSetAllDps true) := by decide
theorem test_decode_dp_set_digit_enabled : decode (.command 0x45000200#32) = .ok (.dpSetDigitEnabled .s2 false) := by decide
theorem test_decode_dp_set_all_enabled : decode (.command 0x46000001#32) = .ok (.dpSetAllDigitsEnabled true) := by decide
theorem test_decode_dp_set_enabled : decode (.command 0x47000000#32) = .ok (.dpSetEnabled false) := by decide
theorem test_decode_rtc_init : decode (.command 0x50000000#32) = .ok .rtcInit := by decide
theorem test_decode_rtc_read_reg : decode (.command 0x51003E00#32) = .ok (.rtcReadReg true 30) := by decide
theorem test_decode_rtc_write_reg : decode (.command 0x520020A5#32) = .ok (.rtcWriteReg true 0 0xA5) := by decide
theorem test_decode_rtc_get_seconds : decode (.command 0x53000000#32) = .ok .rtcGetSeconds := by decide
theorem test_decode_rtc_get_minutes : decode (.command 0x54000000#32) = .ok .rtcGetMinutes := by decide
theorem test_decode_rtc_get_hours : decode (.command 0x55000000#32) = .ok .rtcGetHours := by decide
theorem test_decode_rtc_set_seconds : decode (.command 0x5600003B#32) = .ok (.rtcSetSeconds 59) := by decide
theorem test_decode_rtc_set_minutes : decode (.command 0x57000025#32) = .ok (.rtcSetMinutes 37) := by decide
theorem test_decode_rtc_set_hours : decode (.command 0x5800000D#32) = .ok (.rtcSetHours 13) := by decide
theorem test_decode_rtc_get_time : decode (.command 0x59000000#32) = .ok .rtcGetTime := by decide
theorem test_decode_rtc_set_time : decode (.command 0x5A0D2500#32) = .ok (.rtcSetTime 13 37 0) := by decide
theorem test_decode_link_read : decode (.link 0xFD 0) = .ok (.rtcLinkCmdRead true 30) := by decide
theorem test_decode_link_write : decode (.link 0x8E 0x5A) = .ok (.rtcLinkCmdWrite false 7 0x5A) := by decide
theorem test_table_word_command : decodeTableWord 32 0x4100000A = some (.dpSetDigit .s0 10) := by decide
theorem test_table_word_link : decodeTableWord 8 0x85 = some (.rtcLinkCmdRead false 2) := by decide
theorem test_sender_of_link_byte : [0x85, 0x8E, 0xFC, 0x7F].map senderOfLinkByte =
    [0x51000200#32, 0x52000700#32, 0x52003E00#32, 0x0000007F#32] := by decide

/-! ### Decode: the reserved words of TV2, and first link bytes that are no command byte -/

theorem test_reserved_units : [0x00000000#32, 0x60000000, 0xFFFFFFFF].map (fun w => decode (.command w)) =
    [.error (.reservedUnit 0), .error (.reservedUnit 6), .error (.reservedUnit 15)] := by decide
theorem test_reserved_functions :
    [0x13000000#32, 0x25000000, 0x36000000, 0x48000000, 0x5B000000].map (fun w => decode (.command w)) =
    [.error (.reservedFunction 1 3), .error (.reservedFunction 2 5), .error (.reservedFunction 3 6),
     .error (.reservedFunction 4 8), .error (.reservedFunction 5 11)] := by decide
theorem test_reserved_bits :
    [0x10000001#32, 0x23000100, 0x41000400, 0x41000020, 0x42100000, 0x43000002, 0x47000002, 0x51004000, 0x51000001,
     0x52004000, 0x56000100].map (fun w => decode (.command w)) =
    [0x10, 0x23, 0x41, 0x41, 0x42, 0x43, 0x47, 0x51, 0x51, 0x52, 0x56].map
      (fun o : Byte => Except.error (.mustBeZero o)) := by decide
theorem test_link_not_a_command : decode (.link 0x7F 0) = .error (.notALinkCommand 0x7F) := by decide
theorem test_link_read_sends_no_data : decode (.link 0x81 1) = .error (.dataAfterRead 0x81 1) := by decide

/-! ### Unit DB (TV10 to TV17) -/

theorem test_db_sample :
    [(2, 1, false), (2, 2, false), (65535, 65535, false), (2, 2, true)].map
      (fun p => seen dbTuple (exec .dbSample (answering [p.2.2] (withDb p.1 p.2.1 true start)))) =
      [some (2, true), some (0, false), some (0, true), some (0, true)] := by decide
theorem test_db_sample_wraps_at_width :
    [eightBit, widest].map (fun p => seen dbTuple (exec .dbSample (answering [false] (configured p (withDb 255 255 true start))))) =
      [some (0, true), some (0, false)] := by decide
theorem test_db_get_level : seen State.res (exec .dbGet (withDb 2 1 true start)) = some 1 := by decide
theorem test_db_get_pressed : seen State.res (exec .dbGet (withDb 2 1 false start)) = some 0 := by decide
theorem test_db_set_samples :
    seen (fun t => (t.db.debounceSamples, dbTuple t)) (exec (.dbSetSamples 1) (withDb 5 3 true start)) =
      some (1, 3, true) := by decide
theorem test_db_set_samples_refused :
    refusalIn (exec (.dbSetSamples 65536) start) = some (.operandOutOfRange 0x12010000#32) := by decide

/-! ### Unit CAL (TV20 to TV27) -/

theorem test_cal_calibrate :
    [(100, 65535, 5, 5), (40, 41, 10, 200)].map
      (fun p => seen calTuple (exec (.calCalibrate 255 255 (BitVec.ofNat 8 p.2.2.2)) (withCal p.1 p.2.1 p.2.2.1 start))) =
      [some (100, 0, 5), some (42, 0, 200)] := by decide
theorem test_cal_calibrate_wraps_at_width :
    [eightBit, widest].map (fun p => seen calTuple (exec (.calCalibrate 0 0 6) (configured p (withCal 9 255 5 start)))) =
      [some (0, 0, 6), some (256, 0, 6)] := by decide
theorem test_cal_calibrated_false : seen State.res (exec .calCalibrated (withCal 0 5 0 start)) = some 0 := by decide
theorem test_cal_calibrated_true : seen State.res (exec .calCalibrated (withCal 6 0 1 start)) = some 1 := by decide
theorem test_cal_cps : seen State.res (exec .calCps (withCal 65535 3 0 start)) = some 65535 := by decide
theorem test_cal_lit :
    [(1000, 999, 3), (1000, 1000, 2), (1000, 620, 4), (8, 7, 8), (255, 10, 255)].map
      (fun p => seen State.res (exec (.calLit (BitVec.ofNat 8 p.2.2)) (withCal p.1 p.2.1 0 start))) =
      [some 0, some 1, some 1, some 0, some 1] := by decide
theorem test_cal_lit_faults :
    [(3, 4), (1000, 0)].map (fun p => faultOf (exec (.calLit p.2) (withCal p.1 1 0 start))) =
      [some (.litDivideByZero 4 3), some (.litDivideByZero 0 1000)] := by decide
theorem test_cal_reset : seen calTuple (exec .calReset (withCal 1000 7 8 start)) = some (0, 0, 0) := by decide
theorem test_ms_to_cycles :
    [(1000, 20), (730, 20), (40, 20), (65535, 1000), (65535, 999), (8, 250), (3, 334), (3, 333)].map
      (fun p => (msToCycles Config.Params.taken p.2 (BitVec.ofNat 24 p.1)).toNat) = [20, 14, 0, 65535, 65469, 2, 1, 0] := by decide

/-! ### Unit SW (TV30 to TV38) -/

theorem test_sw_sample :
    [(false, withSw 10 9 1 0 false start), (false, withSw 1 65535 65536 0 false start), (true, withSw 20 17 4 0 false start),
      (false, withSw 10 0 0 0 true start), (true, withSw 10 0 0 0 true start),
      (false, configured eightBit (withSw 1 255 256 0 false start))].map
      (fun p => seen swTuple (exec .swSample (answering [p.1] p.2))) =
      [some (10, 2, 0, false), some (65535, 65536, 0, false), some (0, 0, 1, false), some (0, 0, 0, true),
       some (0, 0, 0, false), some (255, 256, 0, false)] := by decide
theorem test_sw_sample_faults :
    faultOf (exec .swSample (answering [false] (withSw 0 0 0 0 false start))) = some (.pushLengthDivideByZero 1) := by decide
theorem test_retune_from_estimate :
    (fun s : State => (s.db.debounceSamples, s.sw.thresholdSamples))
      (configured (times 20 500) (withCal 1000 0 0 (withDb 7 0 true start))).retune = (20, 500) := by decide
theorem test_retune_uncalibrated :
    (fun s : State => (s.db.debounceSamples, s.sw.thresholdSamples)) (configured (times 20 500) (withDb 7 0 true start)).retune = (7, 10) := by
  decide
theorem test_sw_push_length : seen State.res (exec .swPushLength (withSw 5 15 2 0 false start)) = some 4 := by decide
theorem test_sw_push_length_idle : seen State.res (exec .swPushLength (withSw 0 0 0 0 false start)) = some 0 := by decide
theorem test_sw_report_current :
    seen (fun t => (t.res, swTuple t)) (exec .swReportCurrent (withSw 10 25 3 2 false start)) =
      some (3, 25, 0, 2, false) := by decide
theorem test_sw_report_last :
    seen (fun t => (t.res, swTuple t)) (exec .swReportLast (withSw 1 0 0 65536 false start)) =
      some (65536, 0, 0, 0, false) := by decide
theorem test_sw_reset_press_state :
    seen swTuple (exec .swResetPressState (withSw 10 25 3 2 false start)) = some (0, 0, 0, true) := by decide
theorem test_sw_set_threshold :
    seen (fun t => (t.sw.thresholdSamples, swTuple t)) (exec (.swSetThreshold 20) (withSw 5 16 4 0 false start)) =
      some (20, 16, 4, 0, false) := by decide
theorem test_sw_set_threshold_refused :
    refusalIn (exec (.swSetThreshold 16777215) start) = some (.operandOutOfRange 0x35FFFFFF#32) := by decide

/-! ### Unit DP (TV46 to TV53) -/

/-- The display of TV46: 1, 3, 3, 7 with the colon, at this cursor. -/
def shown (cursor : BitVec 3) (on : Bool) : State :=
  withDp ⟨1, 3, 3, 7⟩ ⟨false, true, false, false⟩ ⟨true, true, true, true⟩ cursor on start

theorem test_dp_update_colon : seen dpTuple (exec .dpUpdate (shown 0 true)) = some (1, 0x4F, true, 2) := by decide
theorem test_dp_update_heals_and_masks :
    [(5, true), (1, false)].map (fun p => seen dpTuple (exec .dpUpdate (shown p.1 p.2))) =
      [some (0, 0x06, false, 1), some (2, 0x4F, false, 0)] := by decide
theorem test_dp_set_digit :
    seen (fun t => (t.dp.digits, dpTuple t)) (exec (.dpSetDigit .s3 21) (shown 2 true)) =
      some (⟨1, 3, 3, 21⟩, 2, 0, false, 0) := by decide
theorem test_dp_set_digit_refused :
    refusalIn (exec (.dpSetDigit .s0 22) start) = some (.reservedGlyph 0x41000016#32) := by decide
theorem test_dp_set_digits :
    seen (fun t => t.dp.digits) (exec (.dpSetDigits 10 0 2 9) (shown 2 true)) = some ⟨10, 0, 2, 9⟩ := by decide
theorem test_dp_set_digits_refused :
    refusalIn (exec (.dpSetDigits 0 0 31 0) start) = some (.reservedGlyph 0x42007C00#32) := by decide
theorem test_dp_set_dp : seen (fun t => t.dp.dps) (exec (.dpSetDp .s2 true) (shown 0 true)) =
    some ⟨false, true, true, false⟩ := by decide
theorem test_dp_set_all_dps : seen (fun t => t.dp.dps) (exec (.dpSetAllDps true) (shown 0 true)) =
    some ⟨true, true, true, true⟩ := by decide
theorem test_dp_set_digit_enabled : seen (fun t => t.dp.digitEnabled) (exec (.dpSetDigitEnabled .s3 false) (shown 0 true)) =
    some ⟨true, true, true, false⟩ := by decide
theorem test_dp_set_all_enabled : seen (fun t => t.dp.digitEnabled) (exec (.dpSetAllDigitsEnabled false) (shown 0 true)) =
    some ⟨false, false, false, false⟩ := by decide
theorem test_dp_set_enabled : seen (fun t => (t.dp.enabled, dpTuple t)) (exec (.dpSetEnabled false) (shown 0 true)) =
    some (false, 0, 0, false, 0) := by decide

/-! ### Unit RTC (TV58 to TV66, TR1, TR2) -/

theorem test_bcd : [0, 9, 10, 23, 37, 59, 99].map bcd = [0x00, 0x09, 0x10, 0x23, 0x37, 0x59, 0x99] := by decide
theorem test_unbcd : [(0x59, 7), (0xD9, 7), (0x0A, 7), (0xFF, 7), (0x92, 3), (0xA7, 3), (0xFF, 3)].map
    (fun p : Byte × Byte => unbcd p.1 p.2) = [59, 59, 10, 85, 12, 27, 45] := by decide
theorem test_rtc_cmd : [rtcCmd false 2 true, rtcCmd false 7 false, rtcCmd false 31 true, rtcCmd true 30 false] =
    [0x85, 0x8E, 0xBF, 0xFC] := by decide
theorem test_bit_order_lsb : (List.range 8).map (fun k => (0x85#8).getLsbD (bitpos .lsbFirst k)) =
    [true, false, true, false, false, false, false, true] := by decide
theorem test_rtc_read_reg_trace :
    seen (fun t => reduceTrace (idlePins false) t.trace) (exec (.rtcReadReg false 0) (reading [0x59] start)) =
      some [.ce true, .oe true, .io true, .sclk true, .sclk false, .io false, .sclk true, .sclk false, .sclk true, .sclk false,
        .sclk true, .sclk false, .sclk true, .sclk false, .sclk true, .sclk false, .sclk true, .sclk false, .io true, .sclk true,
        .oe false, .sclk false, .sample false, .sclk true, .sclk false, .sample true, .sclk true, .sclk false, .sample false,
        .sclk true, .sclk false, .sample true, .sclk true, .sclk false, .sample true, .sclk true, .sclk false, .sample false,
        .sclk true, .sclk false, .sample false, .sclk true, .sclk false, .sample true, .ce false] := by decide +kernel
theorem test_rtc_write_reg_trace :
    seen (fun t => reduceTrace (idlePins false) t.trace) (exec (.rtcWriteReg false 7 0) start) =
      some [.ce true, .oe true, .io true, .sclk true, .sclk false, .io false, .sclk true, .sclk false, .sclk true, .sclk false,
        .sclk true, .sclk false, .io true, .sclk true, .sclk false, .sclk true, .sclk false, .sclk true, .sclk false, .io false,
        .sclk true, .sclk false, .sclk true, .sclk false, .sclk true, .sclk false, .sclk true, .sclk false, .sclk true,
        .sclk false, .sclk true, .sclk false, .sclk true, .sclk false, .sclk true, .sclk false, .sclk true, .sclk false,
        .ce false, .oe false] := by decide +kernel
theorem test_rtc_write_reg_wire : seen wireBits (exec (.rtcWriteReg true 0 0xA5) start) =
    some (bitsMsbFirst 0xC0 ++ bitsMsbFirst 0xA5) := by decide +kernel
theorem test_rtc_read_reg :
    [Config.Params.taken, lsbFirst].map (fun p =>
      seen (fun t => (t.res, wireBits t)) (exec (.rtcReadReg false 2) { configured p start with
        env := { start.env with rtcScript := [true, false, false, true, true, false, true, false] } })) =
    [some (0x9A, [true, false, false, false, false, true, false, true]),
     some (0x59, [true, false, true, false, false, false, false, true])] := by decide +kernel
theorem test_rtc_get_seconds : seen State.res (exec .rtcGetSeconds (reading [0xD9] start)) = some 59 := by decide +kernel
theorem test_rtc_get_minutes : seen (fun t => (t.res, wireBits t)) (exec .rtcGetMinutes (reading [0x37] start)) =
    some (37, bitsMsbFirst 0x83) := by decide +kernel
theorem test_rtc_get_hours : seen State.res (exec .rtcGetHours (reading [0xA7] start)) = some 27 := by decide +kernel
theorem test_rtc_set_seconds : seen wireBits (exec (.rtcSetSeconds 59) start) =
    some (bitsMsbFirst 0x80 ++ bitsMsbFirst 0x59) := by decide +kernel
theorem test_rtc_set_seconds_refused :
    refusalIn (exec (.rtcSetSeconds 60) start) = some (.operandOutOfRange 0x5600003C#32) := by decide
theorem test_rtc_set_minutes : seen wireBits (exec (.rtcSetMinutes 37) start) =
    some (bitsMsbFirst 0x82 ++ bitsMsbFirst 0x37) := by decide +kernel
theorem test_rtc_set_hours : seen wireBits (exec (.rtcSetHours 23) start) =
    some (bitsMsbFirst 0x84 ++ bitsMsbFirst 0x23) := by decide +kernel
theorem test_rtc_set_hours_refused :
    refusalIn (exec (.rtcSetHours 24) start) = some (.operandOutOfRange 0x58000018#32) := by decide
theorem test_rtc_get_time : seen State.res (exec .rtcGetTime (reading [0x13, 0x36, 0x31] start)) = some 0x000D241F := by
  decide +kernel
theorem test_rtc_get_time_wire : seen (fun t => (wireBits t, t.trace.length)) (exec .rtcGetTime (reading [0, 0, 0] start)) =
    some (bitsMsbFirst 0x85 ++ bitsMsbFirst 0x83 ++ bitsMsbFirst 0x81, 264) := by decide +kernel
theorem test_rtc_set_time_wire : seen wireBits (exec (.rtcSetTime 13 37 0) start) =
    some (bitsMsbFirst 0x84 ++ bitsMsbFirst 0x13 ++ bitsMsbFirst 0x82 ++ bitsMsbFirst 0x37 ++
      bitsMsbFirst 0x80 ++ bitsMsbFirst 0x00) := by decide +kernel
theorem test_rtc_set_time_refused :
    refusalIn (exec (.rtcSetTime 29 0 0) start) = some (.operandOutOfRange 0x5A1D0000#32) := by decide
theorem test_rtc_init_wire : seen (fun t => (wireBits t, t.trace.length)) (exec .rtcInit (reading [0xB0, 0x92] start)) =
    some (bitsMsbFirst 0x8E ++ bitsMsbFirst 0x00 ++ bitsMsbFirst 0x81 ++ bitsMsbFirst 0x80 ++ bitsMsbFirst 0x30 ++
      bitsMsbFirst 0x85 ++ bitsMsbFirst 0x84 ++ bitsMsbFirst 0x12, 443) := by decide +kernel
theorem test_rtc_init_force24_exception : seen (fun t => (wireBits t).drop 48) (exec .rtcInit (reading [0x30, 0xA7]
      (configured { Config.Params.taken with rtcForce24Except := [(0xA7, 0x19)] } start))) =
    some (bitsMsbFirst 0x84 ++ bitsMsbFirst 0x19) := by decide +kernel
theorem test_rtc_link_cmd_read : seen (fun t => (t.res, wireBits t)) (exec (.rtcLinkCmdRead true 30) (reading [0x9A] start)) =
    some (0x9A, bitsMsbFirst 0xFD) := by decide +kernel
theorem test_rtc_link_cmd_write : seen wireBits (exec (.rtcLinkCmdWrite false 7 0x00) start) =
    some (bitsMsbFirst 0x8E ++ bitsMsbFirst 0x00) := by decide +kernel

/-! ### Step -/

theorem test_step_runs_word : seen State.res (step (issuing 0x11000000#32 start)) = some 1 := by decide
theorem test_step_refuses_reserved :
    refusalIn (step (issuing 0x5B000000#32 start)) = some (.reservedCommandWord 0x5B000000#32) := by decide
theorem test_step_reset : seen (fun t => (t.cal, t.dp.digits)) (step { shown 2 true with inputs := [.rst] }) =
    some (⟨0, 0, 0⟩, ⟨11, 11, 11, 11⟩) := by decide
theorem test_fetch_word_runs : seen calTuple (step (State.reset.withFetchWord 32 0x2000001E)) = some (1, 0, 30) := by decide
theorem test_fetch_link_byte_runs_sender :
    seen wireBits (step (start.withFetchWord 8 0x8E)) = some (bitsMsbFirst 0x8E ++ bitsMsbFirst 0x00) := by decide +kernel

/-! ### Witnesses: a concrete state and operands for the hypotheses of every statement that has some, clause by clause at
boundary values -/

/-- Three disagreeing answers, then an agreeing one, with the threshold at 2 and the counter clear. -/
def bouncing : State := answering [false, false, false, true] (withDb 2 0 true start)

/-- Ten pressed answers, then a released one, no filtering, duration unit 10. -/
def holding : State :=
  answering [false, false, false, false, false, false, false, false, false, false, true] start

theorem witness_DbSample_agree : (answering [true] start).env.btnAnswer 0 = (answering [true] start).db.debouncedValue := by
  decide
theorem witness_DbSample_accept : let s := answering [false] (withDb 2 2 true start)
    s.env.btnAnswer 0 ≠ s.db.debouncedValue ∧
      s.db.debounceSamples.toNat < (s.db.counter.toNat + 1) % 2 ^ s.params.cntW.val := by decide
theorem witness_DbSample_count : let s := answering [false] (withDb 2 1 true start)
    s.env.btnAnswer 0 ≠ s.db.debouncedValue ∧
      (s.db.counter.toNat + 1) % 2 ^ s.params.cntW.val ≤ s.db.debounceSamples.toNat := by decide
theorem witness_DbSetSamples : (65535#24).toNat ≤ start.params.cntMax ∧ start.params.cntMax < (65536#24).toNat := by decide
theorem witness_DebouncerChangesExactlyOnce :
    bouncing.db.counter = 0 ∧ bouncing.db.debounceSamples.toNat < bouncing.params.cntMax ∧
      (∀ k, k < 2 → bouncing.env.btnAnswer k = !bouncing.db.debouncedValue) ∧ 2 ≤ bouncing.db.debounceSamples.toNat ∧
      (∀ k, k < 3 → bouncing.env.btnAnswer k = !bouncing.db.debouncedValue) ∧ bouncing.db.debounceSamples.toNat < 3 := by
  decide
theorem witness_DebouncerIgnoresShortGlitch : let s := answering [false, false, true] (withDb 2 0 true start)
    s.db.counter = 0 ∧ s.db.debounceSamples.toNat < s.params.cntMax ∧ 2 ≤ s.db.debounceSamples.toNat ∧
      (∀ k, k < 2 → s.env.btnAnswer k = !s.db.debouncedValue) ∧ s.env.btnAnswer 2 = s.db.debouncedValue := by decide
theorem witness_DebouncerNeverChanges : (withDb 65535 0 true start).db.debounceSamples.toNat = start.params.cntMax := by decide
theorem witness_SamplingLeavesCounter :
    (nextOf (exec .dbSample bouncing)).isSome = true ∧ (nextOf (exec .swSample bouncing)).isSome = true := by decide
theorem witness_CalCalibrate : (5#8) = (withCal 6 65535 5 start).cal.prevSeconds ∧
    (6#8) ≠ (withCal 6 65535 5 start).cal.prevSeconds := by decide
theorem witness_CalLit_faults : (0#8).toNat = 0 ∧ (withCal 3 1 0 start).cal.cyclesPerSecond.toNat / (4#8).toNat = 0 := by
  decide
theorem witness_CalLit_answers :
    (3#8).toNat ≠ 0 ∧ (withCal 3 1 0 start).cal.cyclesPerSecond.toNat / (3#8).toNat ≠ 0 := by decide
theorem witness_MillisecondConversion : 1000 ≤ 1000 ∧ (65535#24).toNat ≤ start.params.cntMax := by decide
theorem witness_CalibratorMeasures : (1#8) ≠ start.cal.prevSeconds := by decide
theorem witness_SwSample_waiting : let u := sampledOnce (retuned (answering [false] (withSw 10 0 0 0 true start)))
    u.db.debouncedValue = false ∧ u.sw.waitingForRelease = true := by decide
theorem witness_SwSample_pressFault : let u := sampledOnce (retuned (answering [false] (withSw 0 0 0 0 false start)))
    u.db.debouncedValue = false ∧ u.sw.waitingForRelease = false ∧ u.sw.thresholdSamples.toNat = 0 := by decide
theorem witness_SwSample_press : let u := sampledOnce (retuned (answering [false] (withSw 1 65535 0 0 false start)))
    u.db.debouncedValue = false ∧ u.sw.waitingForRelease = false ∧ u.sw.thresholdSamples.toNat ≠ 0 := by decide
theorem witness_SwSample_idle : let u := sampledOnce (retuned (answering [true] (withSw 0 0 0 0 true start)))
    u.db.debouncedValue = true ∧ u.sw.counter.toNat = 0 := by decide
theorem witness_SwSample_releaseFault : let u := sampledOnce (retuned (answering [true] (withSw 0 1 0 0 false start)))
    u.db.debouncedValue = true ∧ u.sw.counter.toNat ≠ 0 ∧ u.sw.thresholdSamples.toNat = 0 := by decide
theorem witness_SwSample_release : let u := sampledOnce (retuned (answering [true] (withSw 1 1 0 0 false start)))
    u.db.debouncedValue = true ∧ u.sw.counter.toNat ≠ 0 ∧ u.sw.thresholdSamples.toNat ≠ 0 := by decide
theorem witness_SwPushLength_idle : (withSw 0 0 0 0 false start).sw.counter.toNat = 0 := by decide
theorem witness_SwPushLength_fault : (withSw 0 1 0 0 false start).sw.counter.toNat ≠ 0 ∧
    (withSw 0 1 0 0 false start).sw.thresholdSamples.toNat = 0 := by decide
theorem witness_SwPushLength_counts : (withSw 1 1 0 0 false start).sw.counter.toNat ≠ 0 ∧
    (withSw 1 1 0 0 false start).sw.thresholdSamples.toNat ≠ 0 := by decide
theorem witness_SwSetThreshold : (65535#24).toNat ≤ start.params.cntMax ∧ start.params.cntMax < (65536#24).toNat := by decide
/-- A calibrated classifier (4 iterations a second, so thresholds 1 and 2 by the retune) on a settled debouncer, and a raw press
of 3 samples, then a released line: P2's retune. -/
def filtered : State :=
  configured (times 250 500) (answering [false, false, false, true, true] (withCal 4 0 0 (withSw 7 0 0 0 false start)))

theorem witness_PressIsQuantized_debounced :
    filtered.sw.counter = 0 ∧ filtered.sw.waitingForRelease = false ∧ (retuned filtered).sw.thresholdSamples.toNat ≠ 0 ∧
      holding.sw.counter = 0 ∧ holding.sw.waitingForRelease = false ∧ (retuned holding).sw.thresholdSamples.toNat ≠ 0 ∧
      (∀ k, k < 10 → (debouncedRun (k + 1) holding).db.debouncedValue = false) ∧
      (debouncedRun 11 holding).db.debouncedValue = true := by decide
theorem witness_PressIsQuantized_raw :
    filtered.cal.cyclesPerSecond = 4 ∧ (retuned filtered).db.debounceSamples.toNat = 1 ∧ 1 < filtered.params.cntMax ∧
      filtered.db.counter = 0 ∧ filtered.db.debouncedValue = true ∧ (∀ k, k < 3 → filtered.env.btnAnswer k = false) ∧
      (∀ k, k < 2 → filtered.env.btnAnswer (3 + k) = true) := by decide
/-- The end of the filtered press: two more samples release it. -/
def releasing : State := withDb 1 0 false (answering [false, true, true] filtered)

theorem witness_ConsumedHold :
    (∀ k, k < 10 → (debouncedRun (k + 1) holding).db.debouncedValue = false) ∧
      (debouncedRun 11 holding).db.debouncedValue = true ∧
      (∀ k, k < 2 → (debouncedRun (k + 1) releasing).db.debouncedValue = false) ∧
      (debouncedRun 3 releasing).db.debouncedValue = true := by decide
theorem witness_DpSetDigit : (21#5).toNat ≤ 21 ∧ 22 ≤ (22#5).toNat ∧ Slot.s1 ≠ Slot.s0 := by decide
theorem witness_DpSetDigits : ((21#5).toNat ≤ 21 ∧ (0#5).toNat ≤ 21) ∧ 22 ≤ (22#5).toNat := by decide
theorem witness_UpdatesVisitSlots : (shown 3 true).dp.cursor.toNat ≤ 3 ∧ (shown 3 true).dp.enabled = true := by decide
theorem witness_OnlyDpUpdate :
    Instr.dpSetEnabled false ≠ .dpUpdate ∧ (nextOf (exec (.dpSetEnabled false) (shown 0 true))).isSome = true := by decide
theorem witness_WritesField : (59#8).toNat ≤ 59 ∧ 59 < (60#8).toNat ∧ (23#8).toNat ≤ 23 ∧ 23 < (24#8).toNat := by decide
theorem witness_RtcSetTime : ((23#8).toNat ≤ 23 ∧ (59#8).toNat ≤ 59) ∧ 23 < (24#8).toNat ∧ 59 < (60#8).toNat := by
  decide
theorem witness_RtcInit : start.params.rtcForce24Except = [] := rfl
theorem witness_Transactions : start.link.idle = true ∧ (nextOf (exec (.rtcWriteReg true 30 0xA5) start)).isSome = true ∧
    (nextOf (exec (.rtcReadReg true 30) start)).isSome = true := by decide +kernel
theorem witness_BcdRoundTrips : (59#8).toNat ≤ 59 ∧ (23#8).toNat ≤ 23 := by decide
theorem witness_EveryAcceptedCode : decode (.command 0x5A173B3B#32) = .ok (.rtcSetTime 23 59 59) := by decide
theorem witness_StepRuns : (issuing 0x30000000#32 start).inputs = .issue 0x30000000#32 :: [] ∧
    decode (.command 0x30000000#32) = .ok .swSample := by decide
theorem witness_StepRefuses : (issuing 0x13000000#32 start).inputs = .issue 0x13000000#32 :: [] ∧
    ∀ i : Instr, encode i ≠ .command 0x13000000#32 := by
  refine ⟨rfl, fun i h => ?_⟩
  have g : opcodeIfCommand (encode i) = some 0x13 := by rw [h]; decide
  cases i <;> simp [encode, opcodeIfCommand, wordN, wordByte, wordIG, wordG4, wordIB, wordB, wordRA, wordRW, wordT] at g
theorem witness_StepWaitsAndResets : start.inputs = [] ∧ ({ start with inputs := [.rst] } : State).inputs = .rst :: [] := by
  decide
/-- A pressed sample is handed over while the classifier waits for release. -/
def sampling : State :=
  issuing 0x30000000#32 (withSw 10 0 0 5 true (answering [false] (shown 3 true)))

theorem witness_StepKeeps : BlockInv sampling ∧ (nextOf (step sampling)).isSome = true := by
  refine ⟨⟨Params.taken_admitted, by decide, by decide, by decide, by decide, by decide, fun i => ?_⟩, by decide⟩
  cases i <;> decide
theorem witness_GlyphTable : start.params.glyphSeg = Config.Params.taken.glyphSeg := rfl
theorem witness_BlankedSlot :
    let s := withDp ⟨8, 8, 8, 8⟩ ⟨true, true, true, true⟩ ⟨false, true, true, true⟩ 3 true start
    s.dp.digitEnabled.get .s0 = false ∧
      (slotBits .s0).toNat = (if 4 ≤ s.dp.cursor.toNat + 1 then 0 else s.dp.cursor.toNat + 1) := by decide
theorem witness_UnitsOwn : Instr.calCps.unit ≠ .db ∧ Instr.calCps ≠ .swSample ∧ Instr.dbGet.unit ≠ .cal ∧
    Instr.dbGet.unit ≠ .sw ∧ Instr.dbGet.unit ≠ .dp ∧ Instr.dbGet.unit ≠ .rtc ∧ Instr.dbGet.unit ≠ .link ∧
    (nextOf (exec .calCps start)).isSome = true ∧ (nextOf (exec .dbGet start)).isSome = true := by decide
theorem witness_Refuses : wellFormed Config.Params.taken (.rtcSetHours 24) = false ∧ wellFormed Config.Params.taken (.rtcSetHours 23) = true := by decide
theorem witness_Faults :
    faultOf (exec (.calLit 0) (withCal 3 1 0 start)) = some (.litDivideByZero 0 3) ∧
      faultOf (exec .swPushLength (withSw 0 1 0 0 false start)) = some (.pushLengthDivideByZero 1) ∧
      faultOf (exec .swSample (answering [true] (withSw 0 1 0 0 false start))) = some (.pushLengthDivideByZero 1) := by decide
theorem witness_Completes :
    completes .swSample holding = true ∧ completes .swSample (answering [false] (withSw 0 0 0 0 false start)) = false ∧
      completes (.calLit 3) (withCal 3 0 0 start) = true ∧ completes (.calLit 4) (withCal 3 0 0 start) = false := by decide
theorem witness_Environment :
    (nextOf (exec .swSample holding)).isSome = true ∧ (nextOf (exec .rtcGetTime start)).isSome = true := by
  decide +kernel
/-- The command words of raw accesses to bank 1, and of a named one. -/
def raw (cw : Word) : State := issuing cw (reading [0x12, 0x34] start)

theorem witness_OnlyRtcOperationsReachTheLink :
    seen (fun t => t.trace.length) (step (raw 0x50000000#32)) = some 443 := by decide +kernel
theorem witness_OnlyRawAccessReachesBankOne_read :
    start.link.idle = true ∧
      seen (fun t => bitsByTransaction start.link none t.trace) (step (raw 0x51003E00#32)) = some [bitsMsbFirst 0xFD] ∧
      bankBit .msbFirst (bitsMsbFirst 0xFD) = some true := by decide +kernel
theorem witness_OnlyRawAccessReachesBankOne_write :
    seen (fun t => bitsByTransaction start.link none t.trace) (step (configured lsbFirst (raw 0x520020A5#32))) =
      some [onLine .lsbFirst (bitsMsbFirst 0xC0) ++ onLine .lsbFirst (bitsMsbFirst 0xA5)] ∧
      bankBit .lsbFirst (onLine .lsbFirst (bitsMsbFirst 0xC0) ++ onLine .lsbFirst (bitsMsbFirst 0xA5)) = some true := by
  decide +kernel
theorem witness_RtcLine : Instr.swSample.unit ≠ .rtc ∧ Instr.swSample.unit ≠ .link ∧
    (nextOf (exec .swSample holding)).isSome = true := by decide

end Sys2Proof.Tests
end

section
/-! PROOFS. Unit DB: the words of its operations, what each operation makes of the state, and the obligations on
rules R101 to R103. -/

namespace Sys2Proof.Proofs

open Sys2Proof.Machine Sys2Proof.Machine.Claims
open Config (Params)

/-! ### Words and results -/

/-- A command word as the union of its opcode field and its operand field (rule R60). -/
theorem wordOf_eq_or (opcode : Byte) (x : BitVec 24) : wordOf opcode x = at32 opcode 24 ||| at32 x 0 := by
  have h := BitVec.setWidth_append_eq_shiftLeft_setWidth_or (b := opcode) (b' := x) (w'' := 32)
  simpa [wordOf, at32] using h

/-- The one-bit result of a predicate (rule R70). -/
theorem ofBool_setWidth_eq_ite (b : Bool) : ((BitVec.ofBool b).setWidth 32 : Word) = if b then 1 else 0 := by
  cases b <;> rfl

/-- A count operand is admitted exactly up to `CNT_MAX` (rule R63). -/
theorem countAdmitted_iff (p : Params) (n : BitVec 24) : countAdmitted p n = true ↔ n.toNat ≤ p.cntMax :=
  decide_eq_true_iff

/-! ### The debouncer step, by its sampled level -/

section DebouncerStep

variable {p : Params} {d : Debouncer} {raw : Bool}

/-- No sample changes the threshold. -/
@[simp] theorem sample_debounceSamples : (d.sample p raw).debounceSamples = d.debounceSamples := by
  rcases d.sample_cases p raw with ⟨_, h⟩ | ⟨_, _, h⟩ | ⟨_, _, h⟩ <;> rw [h]

theorem sample_of_eq (h : raw = d.debouncedValue) : d.sample p raw = { d with counter := 0 } := by
  rw [h, Debouncer.sample_agree]

theorem sample_of_ne_of_lt (h : raw ≠ d.debouncedValue)
    (hlt : d.debounceSamples.toNat < (d.counter.toNat + 1) % p.cntValues) :
    d.sample p raw = { d with counter := 0, debouncedValue := raw } := by
  rw [← wrapInc_toNat] at hlt
  rw [Bool.eq_not.2 h, Debouncer.sample_accept p d hlt]

theorem sample_of_ne_of_le (h : raw ≠ d.debouncedValue)
    (hle : (d.counter.toNat + 1) % p.cntValues ≤ d.debounceSamples.toNat) :
    d.sample p raw = { d with counter := wrapInc p d.counter } := by
  rw [← wrapInc_toNat] at hle
  rw [Bool.eq_not.2 h, Debouncer.sample_count p d hle]

end DebouncerStep

/-! ### The operations' effect on the whole state -/

theorem exec_dbSample (s : State) :
    exec .dbSample s = .next { s with
      db := s.db.sample s.params (s.env.btnAnswer 0), res := 0, trace := []
      env := { s.env with btnDraws := s.env.btnDraws + 1 } } := rfl

theorem exec_dbGet (s : State) :
    exec .dbGet s = .next { s with res := if s.db.debouncedValue then 1 else 0, trace := [] } := by
  rw [← ofBool_setWidth_eq_ite]
  rfl

theorem execDbSetSamples_of_le {n : BitVec 24} {s : State} (h : n.toNat ≤ s.params.cntMax) :
    execDbSetSamples n s = .next { s with db := { s.db with debounceSamples := n }, res := 0, trace := [] } :=
  if_pos ((countAdmitted_iff _ _).2 h)

theorem execDbSetSamples_of_lt {n : BitVec 24} {s : State} (h : s.params.cntMax < n.toNat) :
    execDbSetSamples n s = .refused (.operandOutOfRange (wordOf 0x12 n)) :=
  if_neg fun hadm => Nat.not_le.2 h ((countAdmitted_iff _ _).1 hadm)

/-- The command word of `DB_SET_SAMPLES n` (rules R63 and R76). -/
theorem wordOf_dbSetSamples (n : BitVec 24) : wordOf 0x12 n = 0x12000000#32 ||| at32 n 0 :=
  wordOf_eq_or 0x12 n

/-! ### The obligations -/

/-- Settles O1: the three clauses of rule R101 are the three cases of the debouncer step. -/
theorem dbSampleAppliesHysteresis : Obligations.DbSampleAppliesHysteresis := by
  refine ⟨rfl, fun s => ⟨_, exec_dbSample s, sample_debounceSamples, fun heq => ?agree, fun hne hlt => ?accept,
    fun hne hle => ?count⟩⟩
  case agree =>
    rw [sample_of_eq heq]
    exact ⟨rfl, rfl⟩
  case accept =>
    rw [sample_of_ne_of_lt hne hlt]
    exact ⟨rfl, rfl⟩
  case count =>
    rw [sample_of_ne_of_le hne hle]
    exact ⟨rfl, wrapInc_toNat _ _⟩

/-- Settles O2: at reset the level is rule R6's `DB_INIT_VALUE` = 1. -/
theorem dbGetReturnsDebouncedLevel : Obligations.DbGetReturnsDebouncedLevel :=
  ⟨rfl, exec_dbGet, exec_dbGet State.reset⟩

/-- Settles O3: the operation admits a count exactly up to `CNT_MAX`. -/
theorem dbSetSamplesRetunesThreshold : Obligations.DbSetSamplesRetunesThreshold := by
  intro n s
  rw [← wordOf_dbSetSamples]
  exact ⟨rfl, execDbSetSamples_of_le, execDbSetSamples_of_lt⟩

end Sys2Proof.Proofs
end

section
/-! PROOFS. Unit CAL: the words of its operations, the calibrator step and its sub-periods, and the obligations on rules R121
to R125. -/

namespace Sys2Proof.Proofs

open Sys2Proof.Machine Sys2Proof.Machine.Claims
open Config (Params)

/-! ### Words and results -/

/-- Two adjacent fields, placed at bit `k`, are the lower one at `k` and the upper one above it. -/
theorem at32_append {m n : Nat} (x : BitVec m) (y : BitVec n) (k : Nat) : at32 (x ++ y) k = at32 x (n + k) ||| at32 y k := by
  simp only [at32, BitVec.setWidth_append_eq_shiftLeft_setWidth_or, BitVec.shiftLeft_or_distrib, BitVec.shiftLeft_add]

@[simp] theorem at32_zero {n : Nat} (k : Nat) : at32 0#n k = 0#32 := by
  simp [at32]

/-- The word of formats `M` and `V8` (rules R64 and R69). -/
theorem wordByte_eq_or (opcode v : Byte) : wordByte opcode v = at32 opcode 24 ||| at32 v 0 := by
  have hoperand : at32 (operandsByte v) 0 = at32 v 0 := by
    rw [operandsByte, at32_append, at32_zero, BitVec.zero_or]
  rw [wordByte, wordOf_eq_or, hoperand]

/-- The word of format `T` (rule R69). -/
theorem wordT_eq_or (opcode h m s : Byte) :
    wordT opcode h m s = at32 opcode 24 ||| at32 h 16 ||| at32 m 8 ||| at32 s 0 := by
  rw [wordT, wordOf_eq_or, operandsT, at32_append, at32_append, ← BitVec.or_assoc, ← BitVec.or_assoc]

/-- An operation whose only effect is to answer whether `P` holds (rule R70). -/
theorem begin_resultBool_decide (P : Prop) [Decidable P] (s : State) :
    s.begin.resultBool (decide P) = { s with res := if P then 1 else 0, trace := [] } := by
  rw [State.resultBool, ofBool_setWidth_eq_ite]
  simp only [decide_eq_true_eq]
  rfl

/-! ### The calibrator step and its sub-periods -/

/-- A call within the second seen last counts itself and nothing else (rule R121). -/
theorem calibrate_of_eq {p : Params} {c : Calibrator} {seconds : Byte} (h : seconds = c.prevSeconds) :
    c.calibrate p seconds = { c with cycles := wrapInc p c.cycles } :=
  if_pos h

/-- The first call of another second takes the snapshot, itself included (rule R121). -/
theorem calibrate_of_ne {p : Params} {c : Calibrator} {seconds : Byte} (h : seconds ≠ c.prevSeconds) :
    c.calibrate p seconds = { cyclesPerSecond := wrapInc p c.cycles, cycles := 0, prevSeconds := seconds } :=
  if_neg h

/-- Under modulo 0 the sub-period is 0, Lean's quotient by 0, so the two fault branches of rule R124 are one. -/
@[simp] theorem subPeriod_zero (c : Calibrator) : c.subPeriod 0 = 0 :=
  Nat.div_zero _

/-- A second that divides into no sub-period of at least one call is fault F1 (rule R252). -/
theorem execCalLit_of_subPeriod_eq_zero {modulo : Byte} {s : State} (h : s.cal.subPeriod modulo = 0) :
    execCalLit modulo s = .fault (.litDivideByZero modulo s.cal.cyclesPerSecond) := by
  by_cases hm : modulo = 0
  · exact if_pos hm
  · rw [execCalLit, if_neg hm, if_pos h]

/-- With sub-periods of at least one call, the result is the parity of the current one's number (rule R124). -/
theorem execCalLit_of_subPeriod_ne_zero {modulo : Byte} {s : State} (h : s.cal.subPeriod modulo ≠ 0) :
    execCalLit modulo s = .next { s with
      res := if s.cal.cycles.toNat / s.cal.subPeriod modulo % 2 = 0 then 1 else 0, trace := [] } := by
  have hm : modulo ≠ 0 := by
    rintro rfl
    exact h (subPeriod_zero _)
  rw [execCalLit, if_neg hm, if_neg h, begin_resultBool_decide]

/-! ### The operations' effect on the whole state -/

theorem exec_calCalibrate (h m sec : Byte) (s : State) :
    exec (.calCalibrate h m sec) s = .next { s with cal := s.cal.calibrate s.params sec, res := 0, trace := [] } := rfl

theorem exec_calCalibrated (s : State) :
    exec .calCalibrated s = .next { s with res := if 0 < s.cal.cyclesPerSecond.toNat then 1 else 0, trace := [] } :=
  congrArg Host.Outcome.next (begin_resultBool_decide _ s)

/-- Zero-extending the estimate to the result keeps its value (rule R70). -/
theorem exec_calCps (s : State) :
    exec .calCps s = .next { s with res := BitVec.ofNat 32 s.cal.cyclesPerSecond.toNat, trace := [] } := by
  rw [BitVec.ofNat_toNat]
  rfl

/-! ### The obligations -/

/-- Settles O8: the two clauses of rule R121 are the two cases of the calibrator step. -/
theorem calCalibrateCountsAndSnapshots : Obligations.CalCalibrateCountsAndSnapshots := by
  intro h m sec s
  refine ⟨congrArg Code.command (wordT_eq_or 0x20 h m sec), _, exec_calCalibrate h m sec s, fun heq => ?sameSecond,
    fun hne => ?newSecond⟩
  case sameSecond =>
    rw [calibrate_of_eq heq]
    exact ⟨wrapInc_toNat _ _, rfl, rfl⟩
  case newSecond =>
    rw [calibrate_of_ne hne]
    exact ⟨wrapInc_toNat _ _, rfl, rfl⟩

/-- Settles O10: modulo 0 and a second too short for its sub-periods both give the sub-period 0, which is the fault. -/
theorem calLitTellsEvenSubPeriods : Obligations.CalLitTellsEvenSubPeriods := by
  intro modulo s
  refine ⟨congrArg Code.command (wordByte_eq_or 0x23 modulo), fun hnone => ?fault,
    fun _ hsub => execCalLit_of_subPeriod_ne_zero hsub⟩
  case fault =>
    have hsub : s.cal.subPeriod modulo = 0 := by
      rcases hnone with hmod | hsub
      · rw [Calibrator.subPeriod, hmod, Nat.div_zero]
      · exact hsub
    exact execCalLit_of_subPeriod_eq_zero hsub

/-- Settles O9: both operations read the estimate into the result and touch no register. -/
theorem calReadsTheEstimate : Obligations.CalReadsTheEstimate :=
  ⟨rfl, rfl, fun s => ⟨exec_calCalibrated s, exec_calCps s⟩⟩

/-- Settles O11: the operation writes the whole register record of the unit (rule R125). -/
theorem calResetForgetsCalibration : Obligations.CalResetForgetsCalibration :=
  ⟨rfl, fun _ => rfl⟩

end Sys2Proof.Proofs
end

section
/-! PROOFS. Unit SW: the live length, the three steps of `SW_SAMPLE`, what each operation makes of the state, and the obligations
on rules R141 to R147. -/

namespace Sys2Proof.Proofs

open Sys2Proof.Machine Sys2Proof.Machine.Claims
open Config (Params)

/-! ### Words and results -/

/-- The command word of `SW_SET_THRESHOLD n` (rules R63 and R76). -/
theorem wordOf_swSetThreshold (n : BitVec 24) : wordOf 0x35 n = 0x35000000#32 ||| at32 n 0 :=
  wordOf_eq_or 0x35 n

/-- A zero-extended result keeps its value (rule R70). -/
theorem resultZext_eq {n : Nat} (v : BitVec n) (s : State) : s.resultZext v = { s with res := BitVec.ofNat 32 v.toNat } := by
  rw [BitVec.ofNat_toNat]
  rfl

/-- The registers' zero tests, as the rules write them on numbers (rule R7). -/
theorem eq_zero_iff_toNat {n : Nat} (v : BitVec n) : v = 0 ↔ v.toNat = 0 :=
  BitVec.toNat_eq

/-- A latch raised to a length, when that is larger (rule R141). -/
theorem ite_lt_eq_ofNat_max {latch length : Length} {n : Nat} (hn : length.toNat = n) :
    (if latch.toNat < n then length else latch) = BitVec.ofNat 25 (max latch.toNat n) := by
  subst hn
  split
  case isTrue h => rw [max_eq_right h.le, BitVec.ofNat_toNat, BitVec.setWidth_eq]
  case isFalse h => rw [max_eq_left (not_lt.1 h), BitVec.ofNat_toNat, BitVec.setWidth_eq]

/-! ### Steps 1 and 2 of `SW_SAMPLE` -/

theorem retune_eq_retuned (s : State) : s.retune = retuned s := by
  by_cases h : s.cal.cyclesPerSecond.toNat = 0
  case pos => rw [State.retune, retuned, if_pos h, if_neg (by simp [Calibrator.calibrated, h])]
  case neg =>
    rw [State.retune, retuned, if_neg h, if_pos (by simp [Calibrator.calibrated, Nat.pos_of_ne_zero h])]
    rfl

@[simp] theorem retuned_params (s : State) : (retuned s).params = s.params := by
  rw [← retune_eq_retuned, State.retune_params]

theorem sampledOnce_retuned_params (s : State) : (sampledOnce (retuned s)).params = s.params :=
  retuned_params s

theorem sample_eq_sampledLevel (p : Params) (d : Debouncer) (raw : Bool) : d.sample p raw = sampledLevel p d raw := by
  rw [Debouncer.sample, wrapInc_toNat]
  rfl

theorem exec_dbSample_eq_sampledOnce (s : State) : exec .dbSample s = .next (sampledOnce s) := by
  rw [exec_dbSample, sample_eq_sampledLevel]
  rfl

/-- The retune reads and writes neither the result port nor the trace. -/
theorem retune_begin (s : State) : s.begin.retune = s.retune.begin := by
  rw [State.retune, State.retune, apply_ite State.begin]
  rfl

/-- Steps 1 and 2 of rule R141 are the retune and then the step of `DB_SAMPLE`. -/
theorem retuneAndDebounce_begin (s : State) : s.begin.retuneAndDebounce = sampledOnce (retuned s) := by
  have hsample : (retuned s).begin.debounce = sampledOnce (retuned s) :=
    Host.Outcome.next.inj (exec_dbSample_eq_sampledOnce (retuned s))
  rw [State.retuneAndDebounce, retune_begin, retune_eq_retuned, hsample]

/-! ### Step 3 of `SW_SAMPLE`, by the debounced level and the classifier's registers -/

section Classify

variable {p : Params} {c : Classifier} {d : Debouncer}

theorem pushLength_of_idle (hc : c.counter.toNat = 0) : c.pushLength = .ok 0 :=
  c.pushLength_zero ((eq_zero_iff_toNat _).2 hc)

theorem pushLength_of_threshold_eq_zero (hc : c.counter.toNat ≠ 0) (ht : c.thresholdSamples.toNat = 0) :
    c.pushLength = .error (.pushLengthDivideByZero c.counter) :=
  c.pushLength_fault (mt (eq_zero_iff_toNat _).1 hc) ((eq_zero_iff_toNat _).2 ht)

theorem pushLength_of_threshold_ne_zero (hc : c.counter.toNat ≠ 0) (ht : c.thresholdSamples.toNat ≠ 0) :
    c.pushLength = .ok (BitVec.ofNat 25 (lengthOf c.counter.toNat c)) :=
  c.pushLength_quotient (mt (eq_zero_iff_toNat _).1 hc) (mt (eq_zero_iff_toNat _).1 ht)

/-- A sample later something is counted, so the length of the press is not the idle 0. -/
theorem countedOnce_toNat_ne_zero (p : Params) (c : Classifier) : (countedOnce p c).toNat ≠ 0 :=
  mt (eq_zero_iff_toNat _).2 (satInc_ne_zero p c.counter)

theorem countPress_of_waiting (hw : c.waitingForRelease = true) : c.countPress p = .ok c :=
  if_pos hw

theorem countPress_of_threshold_eq_zero (hw : c.waitingForRelease = false) (ht : c.thresholdSamples.toNat = 0) :
    c.countPress p = .error (.pushLengthDivideByZero (countedOnce p c)) := by
  have hfault : Classifier.pushLength { c with counter := satInc p c.counter } =
      .error (.pushLengthDivideByZero (countedOnce p c)) :=
    pushLength_of_threshold_eq_zero (countedOnce_toNat_ne_zero p c) ht
  rw [Classifier.countPress, if_neg (Bool.eq_false_iff.1 hw), hfault]

theorem countPress_of_threshold_ne_zero (hw : c.waitingForRelease = false) (ht : c.thresholdSamples.toNat ≠ 0) :
    c.countPress p = .ok (countedPress p c) := by
  have hlength : Classifier.pushLength { c with counter := satInc p c.counter } =
      .ok (BitVec.ofNat 25 (lengthOf (countedOnce p c).toNat c)) :=
    pushLength_of_threshold_ne_zero (countedOnce_toNat_ne_zero p c) ht
  have hfits : (BitVec.ofNat 25 (lengthOf (countedOnce p c).toNat c)).toNat = lengthOf (countedOnce p c).toNat c :=
    lengthOf_toNat _ _
  rw [Classifier.countPress, if_neg (Bool.eq_false_iff.1 hw), hlength, countedPress, ← ite_lt_eq_ofNat_max hfits]
  simp only [hfits]
  split <;> rfl

theorem release_of_idle (hc : c.counter.toNat = 0) :
    c.release = .ok { c with currentPressLength := 0, waitingForRelease := false } := by
  have hzero : c.counter = 0 := (eq_zero_iff_toNat _).2 hc
  rw [Classifier.release, if_pos hzero, ← hzero]

theorem release_of_threshold_eq_zero (hc : c.counter.toNat ≠ 0) (ht : c.thresholdSamples.toNat = 0) :
    c.release = .error (.pushLengthDivideByZero c.counter) := by
  rw [Classifier.release, if_neg (mt (eq_zero_iff_toNat _).1 hc), pushLength_of_threshold_eq_zero hc ht]

theorem release_of_threshold_ne_zero (hc : c.counter.toNat ≠ 0) (ht : c.thresholdSamples.toNat ≠ 0) :
    c.release = .ok (releasedPress c) := by
  rw [Classifier.release, if_neg (mt (eq_zero_iff_toNat _).1 hc), pushLength_of_threshold_ne_zero hc ht]
  rfl

/-- A debounced level 0 is a press: the button is active-low (rule R21). -/
theorem classify_of_level_zero (h : d.debouncedValue = false) : c.classify p d.pressed = c.countPress p := by
  rw [Debouncer.pressed_eq, h]
  rfl

/-- A debounced level 1 is no press (rule R21). -/
theorem classify_of_level_one (h : d.debouncedValue = true) : c.classify p d.pressed = c.release := by
  rw [Debouncer.pressed_eq, h]
  rfl

end Classify

/-! ### The operations' effect on the whole state -/

section SwSample

variable {s u : State}

/-- `SW_SAMPLE` completes where step 3 has a value on the retuned and debounced state, and replaces the classifier by it. -/
theorem execSwSample_of_ok {c : Classifier} (hu : u = sampledOnce (retuned s))
    (h : u.sw.classify u.params u.db.pressed = .ok c) : execSwSample s = .next { u with sw := c } := by
  subst hu
  rw [sampledOnce_retuned_params] at h
  rw [execSwSample, retuneAndDebounce_begin, h]

/-- `SW_SAMPLE` faults where step 3 does on the retuned and debounced state. -/
theorem execSwSample_of_error {f : Fault} (hu : u = sampledOnce (retuned s))
    (h : u.sw.classify u.params u.db.pressed = .error f) : execSwSample s = .fault f := by
  subst hu
  rw [sampledOnce_retuned_params] at h
  rw [execSwSample, retuneAndDebounce_begin, h]

end SwSample

section SwPushLength

variable {s : State}

theorem execSwPushLength_of_ok {pl : Length} (h : s.sw.pushLength = .ok pl) :
    execSwPushLength s = .next { s with res := BitVec.ofNat 32 pl.toNat, trace := [] } := by
  rw [execSwPushLength, h]
  exact congrArg Host.Outcome.next (resultZext_eq pl s.begin)

theorem execSwPushLength_of_error {f : Fault} (h : s.sw.pushLength = .error f) : execSwPushLength s = .fault f := by
  rw [execSwPushLength, h]

end SwPushLength

theorem exec_swReportCurrent (s : State) :
    exec .swReportCurrent s = .next { s with
      sw := { s.sw with currentPressLength := 0 }, res := BitVec.ofNat 32 s.sw.currentPressLength.toNat, trace := [] } :=
  congrArg Host.Outcome.next (resultZext_eq _ _)

theorem exec_swReportLast (s : State) :
    exec .swReportLast s = .next { s with
      sw := { s.sw with lastPressLength := 0 }, res := BitVec.ofNat 32 s.sw.lastPressLength.toNat, trace := [] } :=
  congrArg Host.Outcome.next (resultZext_eq _ _)

theorem exec_swResetPressState (s : State) :
    exec .swResetPressState s = .next { s with
      sw := { thresholdSamples := s.sw.thresholdSamples, counter := 0, currentPressLength := 0, lastPressLength := 0
              waitingForRelease := true }
      res := 0, trace := [] } := rfl

theorem execSwSetThreshold_of_le {n : BitVec 24} {s : State} (h : n.toNat ≤ s.params.cntMax) :
    execSwSetThreshold n s = .next { s with sw := { s.sw with thresholdSamples := n }, res := 0, trace := [] } :=
  if_pos ((countAdmitted_iff _ _).2 h)

theorem execSwSetThreshold_of_lt {n : BitVec 24} {s : State} (h : s.params.cntMax < n.toNat) :
    execSwSetThreshold n s = .refused (.operandOutOfRange (wordOf 0x35 n)) :=
  if_neg fun hadm => Nat.not_le.2 h ((countAdmitted_iff _ _).1 hadm)

/-! ### The obligations -/

/-- Settles O14: steps 1 and 2 give the state of the statement, and its clauses are the outcomes of step 3, three at a pressed
sample and three at an unpressed one. -/
theorem swSampleRetunesDebouncesClassifies : Obligations.SwSampleRetunesDebouncesClassifies := by
  refine ⟨rfl, fun s u hu => ⟨?debounced, fun hp hw => ?waiting, fun hp hw ht => ?pressFault, fun hp hw ht => ?press,
    fun hp hc => ?idle, fun hp hc ht => ?releaseFault, fun hp hc ht => ?release⟩⟩
  case debounced => rw [hu, exec_dbSample_eq_sampledOnce]
  case waiting => exact execSwSample_of_ok hu ((classify_of_level_zero hp).trans (countPress_of_waiting hw))
  case pressFault =>
    exact execSwSample_of_error hu ((classify_of_level_zero hp).trans (countPress_of_threshold_eq_zero hw ht))
  case press => exact execSwSample_of_ok hu ((classify_of_level_zero hp).trans (countPress_of_threshold_ne_zero hw ht))
  case idle => exact execSwSample_of_ok hu ((classify_of_level_one hp).trans (release_of_idle hc))
  case releaseFault => exact execSwSample_of_error hu ((classify_of_level_one hp).trans (release_of_threshold_eq_zero hc ht))
  case release => exact execSwSample_of_ok hu ((classify_of_level_one hp).trans (release_of_threshold_ne_zero hc ht))

/-- Settles O15: the operation answers the three cases of `push_length()`, whose quotient fits the length it is read from. -/
theorem swPushLengthIsLiveLength : Obligations.SwPushLengthIsLiveLength := by
  refine ⟨rfl, fun s => ⟨fun hc => ?idle, fun hc ht => ?fault, fun hc ht => ?counting⟩⟩
  case idle => exact execSwPushLength_of_ok (pushLength_of_idle hc)
  case fault => exact execSwPushLength_of_error (pushLength_of_threshold_eq_zero hc ht)
  case counting =>
    rw [← lengthOf_toNat]
    exact execSwPushLength_of_ok (pushLength_of_threshold_ne_zero hc ht)

/-- Settles O16: the second read finds the latch at the 0 the first left. -/
theorem swReportCurrentReadsOnce : Obligations.SwReportCurrentReadsOnce :=
  ⟨rfl, fun s => ⟨_, exec_swReportCurrent s, rfl, exec_swReportCurrent _⟩⟩

/-- Settles O17: the second read finds the latch at the 0 the first left. -/
theorem swReportLastReadsOnce : Obligations.SwReportLastReadsOnce :=
  ⟨rfl, fun s => ⟨_, exec_swReportLast s, rfl, exec_swReportLast _⟩⟩

/-- Settles O18: of the unit's registers only the threshold is kept (rule R145). -/
theorem swResetPressStateDropsThePress : Obligations.SwResetPressStateDropsThePress :=
  ⟨rfl, exec_swResetPressState⟩

/-- Settles O19: the operation admits a count exactly up to `CNT_MAX`. -/
theorem swSetThresholdStoresTheUnit : Obligations.SwSetThresholdStoresTheUnit := by
  intro n s
  rw [← wordOf_swSetThreshold]
  exact ⟨rfl, execSwSetThreshold_of_le, execSwSetThreshold_of_lt⟩

end Sys2Proof.Proofs
end

section
/-! PROOFS. Unit DP: the words of its operations, the slot an update drives, what each operation makes of the state, and the
obligations on rules R171 to R178. -/

namespace Sys2Proof.Proofs

open Sys2Proof.Machine Sys2Proof.Machine.Claims
open Config (Params)

/-! ### Words and operands -/

/-- The word of format `IG` (rule R65). -/
theorem wordIG_eq_or (opcode : Byte) (i : Slot) (g : GlyphCode) :
    wordIG opcode i g = at32 opcode 24 ||| at32 (slotBits i) 8 ||| at32 g 0 := by
  have hoperand : at32 (operandsIG i g) 0 = at32 (slotBits i) 8 ||| at32 g 0 := by
    simp only [operandsIG, at32_append, at32_zero, BitVec.zero_or, BitVec.or_zero]
  rw [wordIG, wordOf_eq_or, hoperand, BitVec.or_assoc]

/-- The word of format `G4` (rule R66). -/
theorem wordG4_eq_or (opcode : Byte) (g0 g1 g2 g3 : GlyphCode) :
    wordG4 opcode g0 g1 g2 g3 = at32 opcode 24 ||| at32 g3 15 ||| at32 g2 10 ||| at32 g1 5 ||| at32 g0 0 := by
  have hoperand : at32 (operandsG4 g0 g1 g2 g3) 0 = at32 g3 15 ||| at32 g2 10 ||| at32 g1 5 ||| at32 g0 0 := by
    simp only [operandsG4, at32_append, at32_zero, BitVec.zero_or]
  rw [wordG4, wordOf_eq_or, hoperand]
  simp only [BitVec.or_assoc]

/-- The word of format `IB` (rule R67). -/
theorem wordIB_eq_or (opcode : Byte) (i : Slot) (b : Bool) :
    wordIB opcode i b = at32 opcode 24 ||| at32 (slotBits i) 8 ||| bit32 b 0 := by
  have hoperand : at32 (operandsIB i b) 0 = at32 (slotBits i) 8 ||| bit32 b 0 := by
    simp only [operandsIB, bit32, at32_append, at32_zero, BitVec.zero_or, BitVec.or_zero]
  rw [wordIB, wordOf_eq_or, hoperand, BitVec.or_assoc]

/-- The word of format `B` (rule R67). -/
theorem wordB_eq_or (opcode : Byte) (b : Bool) : wordB opcode b = at32 opcode 24 ||| bit32 b 0 := by
  have hoperand : at32 (operandsB b) 0 = bit32 b 0 := by
    rw [operandsB, bit32, at32_append, at32_zero, BitVec.zero_or]
  rw [wordB, wordOf_eq_or, hoperand]

/-- The command word of `DP_SET_DIGIT i, g` (rules R65 and R76). -/
theorem wordIG_dpSetDigit (i : Slot) (g : GlyphCode) :
    wordIG 0x41 i g = 0x41000000#32 ||| at32 (slotBits i) 8 ||| at32 g 0 :=
  wordIG_eq_or 0x41 i g

/-- The command word of `DP_SET_DIGITS g0, g1, g2, g3` (rules R66 and R76). -/
theorem wordG4_dpSetDigits (g0 g1 g2 g3 : GlyphCode) :
    wordG4 0x42 g0 g1 g2 g3 = 0x42000000#32 ||| at32 g3 15 ||| at32 g2 10 ||| at32 g1 5 ||| at32 g0 0 :=
  wordG4_eq_or 0x42 g0 g1 g2 g3

/-- A glyph code is admitted exactly up to 21 (rule R73). -/
theorem glyphAdmitted_iff (g : GlyphCode) : glyphAdmitted g = true ↔ g.toNat ≤ 21 :=
  decide_eq_true_iff.trans Nat.lt_succ_iff

/-- Four glyph codes are admitted together exactly when each is (rule R78). -/
theorem glyphsAdmitted_iff (g0 g1 g2 g3 : GlyphCode) :
    (glyphAdmitted g0 && glyphAdmitted g1 && glyphAdmitted g2 && glyphAdmitted g3) = true ↔
      g0.toNat ≤ 21 ∧ g1.toNat ≤ 21 ∧ g2.toNat ≤ 21 ∧ g3.toNat ≤ 21 := by
  simp only [Bool.and_eq_true, glyphAdmitted_iff, and_assoc]

/-! ### The slot an update drives -/

/-- The slot a legal cursor selects has the cursor's number (rule R26). -/
theorem slotBits_slotOfCursor {c : BitVec 3} (h : c.toNat ≤ 3) : (slotBits (slotOfCursor c)).toNat = c.toNat := by
  revert c
  decide

/-- The two spellings of line `n` asserted alone: a shifted one and a power of two. -/
theorem one_shiftLeft_eq_ofNat_two_pow (w n : Nat) : 1#w <<< n = BitVec.ofNat w (2 ^ n) := by
  apply BitVec.eq_of_toNat_eq
  rw [← BitVec.twoPow_eq, BitVec.toNat_twoPow, BitVec.toNat_ofNat]

/-- What the pins show under cursor `c`, its digit-select line written as a power of two (rule R171). -/
theorem drive_eq (p : Params) (d : Display) (c : BitVec 3) :
    d.drive p c = {
      seg := if d.digitEnabled.get (slotOfCursor c) then glyphSeg p (d.digits.get (slotOfCursor c)) else 0
      segDp := d.digitEnabled.get (slotOfCursor c) && d.dps.get (slotOfCursor c)
      digSel := if d.enabled then BitVec.ofNat 4 (2 ^ c.toNat) else 0 } := by
  rw [Display.drive, one_shiftLeft_eq_ofNat_two_pow]

/-! ### The operations' effect on the whole state -/

theorem exec_dpUpdate (s : State) :
    exec .dpUpdate s = .next { s with
      dp := { s.dp with cursor := nextCursor s.dp.cursor }, pins := s.dp.drive s.params (nextCursor s.dp.cursor)
      res := 0, trace := [] } := rfl

theorem execDpSetDigit_of_le {i : Slot} {g : GlyphCode} {s : State} (h : g.toNat ≤ 21) :
    execDpSetDigit i g s = .next { s with
      dp := { s.dp with digits := s.dp.digits.set i g }, res := 0, trace := [] } :=
  if_pos ((glyphAdmitted_iff g).2 h)

theorem execDpSetDigit_of_reserved {i : Slot} {g : GlyphCode} {s : State} (h : 22 ≤ g.toNat) :
    execDpSetDigit i g s = .refused (.reservedGlyph (wordIG 0x41 i g)) :=
  if_neg fun hadm => Nat.not_le.2 h ((glyphAdmitted_iff g).1 hadm)

section DpSetDigits

variable {g0 g1 g2 g3 : GlyphCode} {s : State}

theorem execDpSetDigits_of_all_le (h : g0.toNat ≤ 21 ∧ g1.toNat ≤ 21 ∧ g2.toNat ≤ 21 ∧ g3.toNat ≤ 21) :
    execDpSetDigits g0 g1 g2 g3 s = .next { s with
      dp := { s.dp with digits := { s0 := g0, s1 := g1, s2 := g2, s3 := g3 } }, res := 0, trace := [] } :=
  if_pos ((glyphsAdmitted_iff g0 g1 g2 g3).2 h)

theorem execDpSetDigits_of_any_reserved (h : 22 ≤ g0.toNat ∨ 22 ≤ g1.toNat ∨ 22 ≤ g2.toNat ∨ 22 ≤ g3.toNat) :
    execDpSetDigits g0 g1 g2 g3 s = .refused (.reservedGlyph (wordG4 0x42 g0 g1 g2 g3)) := by
  refine if_neg fun hadm => ?_
  have hall := (glyphsAdmitted_iff g0 g1 g2 g3).1 hadm
  omega

end DpSetDigits

theorem exec_dpSetDp (i : Slot) (b : Bool) (s : State) :
    exec (.dpSetDp i b) s = .next { s with dp := { s.dp with dps := s.dp.dps.set i b }, res := 0, trace := [] } := rfl

theorem exec_dpSetAllDps (b : Bool) (s : State) :
    exec (.dpSetAllDps b) s = .next { s with dp := { s.dp with dps := Slots.all b }, res := 0, trace := [] } := rfl

theorem exec_dpSetDigitEnabled (i : Slot) (b : Bool) (s : State) :
    exec (.dpSetDigitEnabled i b) s = .next { s with
      dp := { s.dp with digitEnabled := s.dp.digitEnabled.set i b }, res := 0, trace := [] } := rfl

theorem exec_dpSetAllDigitsEnabled (b : Bool) (s : State) :
    exec (.dpSetAllDigitsEnabled b) s = .next { s with
      dp := { s.dp with digitEnabled := Slots.all b }, res := 0, trace := [] } := rfl

theorem exec_dpSetEnabled (b : Bool) (s : State) :
    exec (.dpSetEnabled b) s = .next { s with dp := { s.dp with enabled := b }, res := 0, trace := [] } := rfl

/-! ### The obligations -/

/-- Settles O22: the cursor after the update is legal whatever it was before, so it selects the slot of its own number. -/
theorem dpUpdateDrivesTheNextSlot : Obligations.DpUpdateDrivesTheNextSlot := by
  refine ⟨rfl, fun s => ⟨nextCursor s.dp.cursor, slotOfCursor (nextCursor s.dp.cursor), nextCursor_toNat _,
    slotBits_slotOfCursor (nextCursor_le _), ?_⟩⟩
  rw [exec_dpUpdate, drive_eq]

/-- Settles O23: the operation admits a glyph code exactly up to 21. -/
theorem dpSetDigitStoresOneGlyph : Obligations.DpSetDigitStoresOneGlyph := by
  intro i g s
  rw [← wordIG_dpSetDigit]
  exact ⟨rfl, fun hg => ⟨_, execDpSetDigit_of_le hg, Slots.get_set_self _ i g, fun j => Slots.get_set_of_ne _ i j g⟩,
    execDpSetDigit_of_reserved⟩

/-- Settles O24: one guard admits the four codes together, so one reserved code refuses them all. -/
theorem dpSetDigitsStoresFourGlyphs : Obligations.DpSetDigitsStoresFourGlyphs := by
  intro g0 g1 g2 g3 s
  rw [← wordG4_dpSetDigits]
  exact ⟨rfl, fun h0 h1 h2 h3 => execDpSetDigits_of_all_le ⟨h0, h1, h2, h3⟩, execDpSetDigits_of_any_reserved⟩

/-- Settles O25: the points are the old ones with slot `i` replaced. -/
theorem dpSetDpWritesOnePoint : Obligations.DpSetDpWritesOnePoint := fun i b s =>
  ⟨congrArg Code.command (wordIB_eq_or 0x43 i b), _, exec_dpSetDp i b s, Slots.get_set_self _ i b,
    fun j => Slots.get_set_of_ne _ i j b⟩

/-- Settles O26: the enables are the old ones with slot `i` replaced. -/
theorem dpSetDigitEnabledWritesOneEnable : Obligations.DpSetDigitEnabledWritesOneEnable := fun i b s =>
  ⟨congrArg Code.command (wordIB_eq_or 0x45 i b), _, exec_dpSetDigitEnabled i b s, Slots.get_set_self _ i b,
    fun j => Slots.get_set_of_ne _ i j b⟩

/-- Settles O27: each operation writes the constant array of its boolean. -/
theorem dpSetAllWritesEverySlot : Obligations.DpSetAllWritesEverySlot := fun b s =>
  ⟨congrArg Code.command (wordB_eq_or 0x44 b), congrArg Code.command (wordB_eq_or 0x46 b), exec_dpSetAllDps b s,
    exec_dpSetAllDigitsEnabled b s⟩

/-- Settles O28: of the whole unit the operation writes the master enable alone. -/
theorem dpSetEnabledWritesMasterEnable : Obligations.DpSetEnabledWritesMasterEnable := fun b s =>
  ⟨congrArg Code.command (wordB_eq_or 0x47 b), exec_dpSetEnabled b s⟩

end Sys2Proof.Proofs
end

section
/-! PROOFS. The exceptions: what an accepted command word says of its bits, what the step makes of a command word, and the
obligation on rule R254. -/

namespace Sys2Proof.Proofs

open Sys2Proof.Machine Sys2Proof.Machine.Claims

/-! ### An accepted word is the word of its operation -/

/-- The opcode of a word, from the number the opcode map is read at. -/
theorem opcodeOf_eq_ofNat {cw : Word} {n : Nat} (h : (opcodeOf cw).toNat = n) : opcodeOf cw = BitVec.ofNat 8 n := by
  rw [← h, BitVec.ofNat_toNat, BitVec.setWidth_eq]

/-- A format of rules R62 to R69 makes of an accepted word `cw` the instruction `i` and the word `w` of `cw`'s own opcode; where
the encoder gives `i` that word, it gives back `cw`. -/
theorem encode_of_form {cw w : Word} {i j : Instr} (hform : j = i ∧ cw = w) (hencode : encode i = .command w) :
    encode j = .command cw := by
  obtain ⟨rfl, rfl⟩ := hform
  exact hencode

/-- A command word the decoder accepts is the word of the operation it gives: the rows of the opcode map (rule R76), gathered by
format, and the reserved opcodes last. In each row the encoder's opcode is the one the decoder matched. -/
theorem encode_of_decodeWord_eq_ok {cw : Word} {i : Instr} (h : decodeWord cw = .ok i) : encode i = .command cw := by
  unfold decodeWord at h
  split at h
  case h_1 ho | h_2 ho | h_5 ho | h_6 ho | h_8 ho | h_9 ho | h_10 ho | h_11 ho | h_12 ho | h_13 ho | h_15 ho | h_23 ho |
      h_26 ho | h_27 ho | h_28 ho | h_32 ho => exact encode_of_form (formN_eq_ok h) (opcodeOf_eq_ofNat ho ▸ rfl)
  case h_3 ho | h_14 ho => exact encode_of_form (formV_eq_ok h) (opcodeOf_eq_ofNat ho ▸ rfl)
  case h_7 ho | h_29 ho | h_30 ho | h_31 ho => exact encode_of_form (formByte_eq_ok h) (opcodeOf_eq_ofNat ho ▸ rfl)
  case h_16 ho => exact encode_of_form (formIG_eq_ok h) (opcodeOf_eq_ofNat ho ▸ rfl)
  case h_17 ho => exact encode_of_form (formG4_eq_ok h) (opcodeOf_eq_ofNat ho ▸ rfl)
  case h_18 ho | h_20 ho => exact encode_of_form (formIB_eq_ok h) (opcodeOf_eq_ofNat ho ▸ rfl)
  case h_19 ho | h_21 ho | h_22 ho => exact encode_of_form (formB_eq_ok h) (opcodeOf_eq_ofNat ho ▸ rfl)
  case h_24 ho => exact encode_of_form (formRA_eq_ok h) (opcodeOf_eq_ofNat ho ▸ rfl)
  case h_25 ho => exact encode_of_form (formRW_eq_ok h) (opcodeOf_eq_ofNat ho ▸ rfl)
  case h_4 ho | h_33 ho => exact encode_of_form (formT_eq_ok h) (opcodeOf_eq_ofNat ho ▸ rfl)
  case h_34 => cases h

/-! ### The step on a command word -/

theorem step_of_issue {s : State} {cw : Word} {rest : List Input} (h : s.inputs = .issue cw :: rest) :
    step s = runWord cw { s with inputs := rest } := by
  rw [step, h]

theorem runWord_of_error {cw : Word} {r : Reject} (h : decodeWord cw = .error r) (s : State) :
    runWord cw s = .refused (.reservedCommandWord cw) := by
  rw [runWord, h]

/-! ### The obligation -/

/-- Settles O47: the decoder accepts only words of operations, so it rejects the word, and the step refuses what it rejects. -/
theorem stepRefusesReservedWords : Obligations.StepRefusesReservedWords := by
  intro s cw rest hinputs hnone
  rw [step_of_issue hinputs]
  cases hdecode : decodeWord cw with
  | ok i => exact absurd (encode_of_decodeWord_eq_ok hdecode) (hnone i)
  | error r => exact runWord_of_error hdecode _

end Sys2Proof.Proofs
end

section
/-! PROOFS. The codec: the decoder inverts the encoder on every instruction and accepts nothing else; written-out words and the
glyph patterns. -/

namespace Sys2Proof.Proofs

open Sys2Proof.Machine Sys2Proof.Machine.Claims
open Config (Params)

/-! ### The link command bytes -/

/-- The bits of a link command byte that name no index: the constant 1, the bank and the direction (rule R71). -/
theorem linkByte_flags (bank : Bool) (idx : BitVec 5) (rd : Bool) :
    (linkByte bank idx rd).getLsbD 7 = true ∧ (linkByte bank idx rd).getLsbD 6 = bank ∧
      (linkByte bank idx rd).getLsbD 0 = rd := by
  refine ⟨?_, ?_, ?_⟩ <;> exact linkByte_getLsbD bank idx rd _ (by omega)

/-- The read command byte of an address, with no data byte after it, is read back. -/
theorem decodeLink_read (bank : Bool) (idx : BitVec 5) :
    decodeLink (linkByte bank idx true) 0 = .ok (.rtcLinkCmdRead bank idx) := by
  obtain ⟨hone, hbank, hrd⟩ := linkByte_flags bank idx true
  simp only [decodeLink, hone, hbank, hrd, linkByte_idx]
  rfl

/-- The write command byte of an address is read back with the data byte after it. -/
theorem decodeLink_write (bank : Bool) (idx : BitVec 5) (data : Byte) :
    decodeLink (linkByte bank idx false) data = .ok (.rtcLinkCmdWrite bank idx data) := by
  obtain ⟨hone, hbank, hrd⟩ := linkByte_flags bank idx false
  simp only [decodeLink, hone, hbank, hrd, linkByte_idx]
  rfl

/-- Accepted link bytes are a read command byte and no data, or a write command byte and its data. -/
theorem encode_of_decodeLink_eq_ok {cmd data : Byte} {i : Instr} (h : decodeLink cmd data = .ok i) :
    encode i = .link cmd data := by
  unfold decodeLink at h
  split at h
  case isTrue => cases h
  case isFalse hcommand =>
    have hcmd := eq_linkByte cmd (Bool.eq_true_of_not_eq_false hcommand)
    split at h
    case isTrue hwrite =>
      cases h
      rw [hwrite] at hcmd
      rw [encode, ← hcmd]
    case isFalse hread =>
      rw [Bool.eq_true_of_not_eq_false hread] at hcmd
      split at h
      case isTrue hdata =>
        cases h
        rw [encode, ← hcmd, hdata]
      case isFalse => cases h

/-! ### The obligations -/

/-- Settles O43: in each row the decoder finds the row's opcode in the encoder's word, and then the row's format reads the
operands back. -/
theorem decodeReadsBackEveryEncoding : Obligations.DecodeReadsBackEveryEncoding := by
  intro i
  cases i with
  | dbSample | dbGet | calCalibrated | calCps | calReset | swSample | swPushLength | swReportCurrent | swReportLast
  | swResetPressState | dpUpdate | rtcInit | rtcGetSeconds | rtcGetMinutes | rtcGetHours | rtcGetTime =>
    rw [encode, decode, decodeWord, wordN, opcodeOf_wordOf]
    exact formN_wordN _ _
  | dbSetSamples n | swSetThreshold n =>
    rw [encode, decode, decodeWord, opcodeOf_wordOf]
    exact formV_wordOf _ n _
  | calLit v | rtcSetSeconds v | rtcSetMinutes v | rtcSetHours v =>
    rw [encode, decode, decodeWord, wordByte, opcodeOf_wordOf]
    exact formByte_wordByte _ v _
  | calCalibrate h m s | rtcSetTime h m s =>
    rw [encode, decode, decodeWord, wordT, opcodeOf_wordOf]
    exact formT_wordT _ h m s _
  | dpSetDigit slot g =>
    rw [encode, decode, decodeWord, wordIG, opcodeOf_wordOf]
    exact formIG_wordIG _ slot g _
  | dpSetDigits g0 g1 g2 g3 =>
    rw [encode, decode, decodeWord, wordG4, opcodeOf_wordOf]
    exact formG4_wordG4 _ g0 g1 g2 g3 _
  | dpSetDp slot b | dpSetDigitEnabled slot b =>
    rw [encode, decode, decodeWord, wordIB, opcodeOf_wordOf]
    exact formIB_wordIB _ slot b _
  | dpSetAllDps b | dpSetAllDigitsEnabled b | dpSetEnabled b =>
    rw [encode, decode, decodeWord, wordB, opcodeOf_wordOf]
    exact formB_wordB _ b _
  | rtcReadReg bank idx =>
    rw [encode, decode, decodeWord, wordRA, opcodeOf_wordOf]
    exact formRA_wordRA _ bank idx _
  | rtcWriteReg bank idx data =>
    rw [encode, decode, decodeWord, wordRW, opcodeOf_wordOf]
    exact formRW_wordRW _ bank idx data _
  | rtcLinkCmdRead bank idx => exact decodeLink_read bank idx
  | rtcLinkCmdWrite bank idx data => exact decodeLink_write bank idx data

/-- Settles O44: both decoders accept only what the encoder gives. -/
theorem everyAcceptedCodeIsAnEncoding : Obligations.EveryAcceptedCodeIsAnEncoding := by
  intro c i h
  cases c with
  | command cw => exact encode_of_decodeWord_eq_ok h
  | link cmd data => exact encode_of_decodeLink_eq_ok h

/-- Settles O45: six closed words, decoded. -/
theorem writtenOutWordsDecode : Obligations.WrittenOutWordsDecode := by
  refine ⟨?_, ?_, ?_, ?_, ?_, ?_⟩ <;> decide

/-- The patterns depend on the configuration through its glyph table only, for the codes the table has. -/
theorem glyphSeg_congr {p q : Params} (h : p.glyphSeg = q.glyphSeg) (g : GlyphCode) : glyphSeg p g = glyphSeg q g := by
  rw [glyphSeg, glyphSeg, h]

/-- Settles O31: the patterns are read from the table, which is the one rule R6 takes. -/
theorem glyphTableDrivesTheListedPatterns : Obligations.GlyphTableDrivesTheListedPatterns := by
  intro p h
  simp only [glyphSeg_congr h]
  rfl

end Sys2Proof.Proofs
end

section
/-! PROOFS. Unit RTC: the bytes on the link, the two transactions as one record equation each, the operations as sequences of
transactions, and the obligations on rules R71, R72 and R205 to R218. -/

namespace Sys2Proof.Proofs

open Sys2Proof.Machine Sys2Proof.Machine.Claims
open Config (Params)

/-! ### The command byte and the bit order -/

/-- The command byte as rule R71 computes it is the one its fields spell. -/
theorem rtcCmd_eq_linkByte (bank : Bool) (idx : BitVec 5) (rd : Bool) : rtcCmd bank idx rd = linkByte bank idx rd := by
  have hfields : (linkByte bank idx rd).setWidth 8 = rtcCmd bank idx rd := by
    simp only [linkByte, BitVec.setWidth_append_eq_shiftLeft_setWidth_or, BitVec.shiftLeft_or_distrib,
      ← BitVec.shiftLeft_add]
    rfl
  rw [← hfields, BitVec.setWidth_eq]

/-- The statements' bit order is the model's (rule R75). -/
theorem lineBit_eq_bitpos (order : Config.BitOrder) (k : Nat) : lineBit order k = bitpos order k := by
  cases order <;> rfl

/-- A read ends its command byte, in either bit order, with a 1: the direction bit or the constant of bit 7. -/
theorem rtcCmd_read_last (order : Config.BitOrder) (bank : Bool) (idx : BitVec 5) :
    (rtcCmd bank idx true).getLsbD (bitpos order 7) = true := by
  obtain ⟨hone, _, hrd⟩ := linkByte_flags bank idx true
  rw [rtcCmd_eq_linkByte]
  cases order with
  | msbFirst => exact hrd
  | lsbFirst => exact hone

/-! ### The byte eight answers assemble to -/

/-- Setting one bit of a byte leaves the others. -/
theorem getLsbD_setBit (byte : Byte) (p : Nat) (v : Bool) {j : Nat} (hj : j < 8) :
    (setBit byte p v).getLsbD j = (byte.getLsbD j || (v && decide (j = p))) := by
  rw [setBit, BitVec.getLsbD_or, BitVec.getLsbD_shiftLeft, BitVec.getLsbD_setWidth, BitVec.getLsbD_ofBool]
  by_cases hjp : j = p
  · simp [hjp ▸ hj, hjp]
  · have hoff : j < p ∨ j - p ≠ 0 := by omega
    rcases hoff with h | h <;> simp [h, hjp]

/-- Setting bits one after another: a bit is 1 when it was, or when one of them sets it. -/
theorem getLsbD_foldl_setBit (pos : Nat → Nat) (v : Nat → Bool) (ks : List Nat) (byte : Byte) {j : Nat} (hj : j < 8) :
    (ks.foldl (fun byte k => setBit byte (pos k) (v k)) byte).getLsbD j =
      (byte.getLsbD j || ks.any fun k => v k && decide (j = pos k)) := by
  induction ks generalizing byte with
  | nil => simp
  | cons k ks ih => rw [List.foldl_cons, ih, getLsbD_setBit _ _ _ hj, List.any_cons, Bool.or_assoc]

theorem mem_bitIndices {k : Nat} : k ∈ bitIndices ↔ k < 8 :=
  List.mem_range (n := 8)

/-- Each of the eight bits crosses the line at a place of its own (rule R75). -/
theorem bitpos_lt_and_inj (order : Config.BitOrder) {k : Nat} (hk : k < 8) :
    bitpos order k < 8 ∧ ∀ j, j < 8 → bitpos order k = bitpos order j → k = j := by
  cases order <;> simp only [bitpos] <;> exact ⟨by omega, fun j _ h => by omega⟩

/-- The byte the eight samples assemble to is the one rule R75 describes. -/
theorem assembles_receivedByte (order : Config.BitOrder) (v : Nat → Bool) : assembles order (receivedByte order v) v := by
  intro k hk
  obtain ⟨hlt, hinj⟩ := bitpos_lt_and_inj order hk
  rw [lineBit_eq_bitpos, receivedByte, getLsbD_foldl_setBit _ _ _ _ hlt,
    show (0 : Byte).getLsbD (bitpos order k) = false from BitVec.getLsbD_zero, Bool.false_or, Bool.eq_iff_iff,
    List.any_eq_true]
  constructor
  · rintro ⟨j, hj, hv⟩
    rw [Bool.and_eq_true, decide_eq_true_eq] at hv
    rw [hinj j (mem_bitIndices.1 hj) hv.2]
    exact hv.1
  · intro hv
    exact ⟨k, mem_bitIndices.2 hk, by simp [hv]⟩

/-! ### BCD fields -/

/-- The encoded byte as a number: its two digits share no bit (rule R72). -/
theorem bcd_eq_encoded (v : Byte) : bcd v = encoded v := by
  have htens : (v.toNat / 10) <<< 4 % 2 ^ 8 = (v.toNat / 10 % 2 ^ 4) <<< 4 := by
    simp only [Nat.shiftLeft_eq]
    omega
  have hor := Nat.shiftLeft_add_eq_or_of_lt (show v.toNat % 10 < 2 ^ 4 by omega) (v.toNat / 10 % 2 ^ 4)
  apply BitVec.eq_of_toNat_eq
  rw [bcd, encoded, BitVec.toNat_or, BitVec.toNat_shiftLeft, BitVec.toNat_udiv, BitVec.toNat_umod, BitVec.toNat_ofNat]
  calc (v.toNat / 10) <<< 4 % 2 ^ 8 ||| v.toNat % 10
      = (v.toNat / 10 % 2 ^ 4) * 2 ^ 4 + v.toNat % 10 := by rw [htens, ← hor, Nat.shiftLeft_eq]
    _ = (16 * (v.toNat / 10) + v.toNat % 10) % 2 ^ 8 := by omega

theorem encoded_toNat {v : Byte} (h : v.toNat ≤ 99) : (encoded v).toNat = 16 * (v.toNat / 10) + v.toNat % 10 := by
  rw [encoded, BitVec.toNat_ofNat]
  omega

/-- A decoded byte as a number: with at most three tens bits the sum fits a byte (rule R72). -/
theorem unbcd_toNat (b tm : Byte) {k : Nat} (htm : tm.toNat = 2 ^ k - 1) (hk : k ≤ 3) :
    (unbcd b tm).toNat = decoded b tm.toNat := by
  have hpos := Nat.two_pow_pos k
  have hmask : tm.toNat + 1 ≤ 8 := by
    have hpow := Nat.pow_le_pow_right (show 0 < 2 by decide) hk
    omega
  have htens : b.toNat / 16 &&& tm.toNat = b.toNat / 16 % (tm.toNat + 1) := by
    rw [htm, Nat.and_two_pow_sub_one_eq_mod, Nat.sub_add_cancel hpos]
  have hunits : b.toNat &&& 15 = b.toNat % 16 := Nat.and_two_pow_sub_one_eq_mod _ 4
  have hlt := Nat.mod_lt (b.toNat / 16) (show 0 < tm.toNat + 1 by omega)
  rw [unbcd, decoded, BitVec.toNat_add, BitVec.toNat_mul, BitVec.toNat_and, BitVec.toNat_and, BitVec.toNat_ushiftRight,
    Nat.shiftRight_eq_div_pow]
  calc (10 * (b.toNat / 16 &&& tm.toNat) % 2 ^ 8 + (b.toNat &&& 15)) % 2 ^ 8
      = (10 * (b.toNat / 16 % (tm.toNat + 1)) % 2 ^ 8 + b.toNat % 16) % 2 ^ 8 := by rw [htens, hunits]
    _ = 10 * (b.toNat / 16 % (tm.toNat + 1)) + b.toNat % 16 := by omega

theorem unbcd_sixty_toNat (b : Byte) : (unbcd b tensMaskSixty).toNat = decoded b 7 :=
  unbcd_toNat b tensMaskSixty (k := 3) rfl le_rfl

theorem unbcd_hours_toNat (b : Byte) : (unbcd b tensMaskHours).toNat = decoded b 3 :=
  unbcd_toNat b tensMaskHours (k := 2) rfl (by decide)

/-- A value whose tens digit fits the mask is decoded from its encoding. -/
theorem decoded_encoded {v : Byte} {tm : Nat} (h : v.toNat / 10 ≤ tm) (h99 : v.toNat ≤ 99) : decoded (encoded v) tm = v.toNat := by
  have htens : (16 * (v.toNat / 10) + v.toNat % 10) / 16 = v.toNat / 10 := by omega
  rw [decoded, encoded_toNat h99, htens, Nat.mod_eq_of_lt (by omega)]
  omega

/-- The two decimal digits of a byte below `2 ^ k` leave its bits from `k` up 0. -/
theorem getLsbD_encoded_eq_false {v : Byte} {k : Nat} (h99 : v.toNat ≤ 99) (h : 16 * (v.toNat / 10) + v.toNat % 10 < 2 ^ k) :
    (encoded v).getLsbD k = false :=
  Nat.testBit_lt_two_pow ((encoded_toNat h99).trans_lt h)

/-- The three decoded fields side by side, as a number (rule R69). -/
theorem timeWord_eq_ofNat (h m s : Byte) : timeWord h m s = BitVec.ofNat 32 (h.toNat * 65536 + m.toNat * 256 + s.toNat) := by
  have hh := h.isLt
  have hm := m.isLt
  have hs := s.isLt
  apply BitVec.eq_of_toNat_eq
  rw [timeWord, BitVec.toNat_append, BitVec.toNat_append, BitVec.toNat_append, BitVec.toNat_ofNat, BitVec.toNat_ofNat,
    ← Nat.shiftLeft_add_eq_or_of_lt hh, ← Nat.shiftLeft_add_eq_or_of_lt hm, ← Nat.shiftLeft_add_eq_or_of_lt hs]
  simp only [Nat.shiftLeft_eq]
  omega

/-! ### Admitted fields -/

/-- Seconds and minutes are admitted exactly up to 59 (rule R78). -/
theorem sixtyAdmitted_iff (v : Byte) : sixtyAdmitted v = true ↔ v.toNat ≤ 59 :=
  decide_eq_true_iff

/-- Hours are admitted exactly up to 23 (rule R78). -/
theorem hoursAdmitted_iff (v : Byte) : hoursAdmitted v = true ↔ v.toNat ≤ 23 :=
  decide_eq_true_iff

/-- The three fields of a time are admitted together exactly when each is (rule R78). -/
theorem timeAdmitted_iff (h m s : Byte) :
    (hoursAdmitted h && sixtyAdmitted m && sixtyAdmitted s) = true ↔ h.toNat ≤ 23 ∧ m.toNat ≤ 59 ∧ s.toNat ≤ 59 := by
  simp only [Bool.and_eq_true, hoursAdmitted_iff, sixtyAdmitted_iff, and_assoc]

/-! ### The two transactions -/

/-- The environment after `n` more samples of the RTC data line. -/
def rtcSampled (n : Nat) (e : Env) : Env := { e with rtcDraws := e.rtcDraws + n }

/-- The answers after `n` samples are the ones from the `n`-th on. -/
theorem rtcAnswer_rtcSampled (n : Nat) (e : Env) : (rtcSampled n e).rtcAnswer = fun k => e.rtcAnswer (n + k) :=
  funext fun k => Env.rtcAnswer_advance e n k

theorem rtcSampled_rtcSampled (m n : Nat) (e : Env) : rtcSampled n (rtcSampled m e) = rtcSampled (m + n) e := by
  simp only [rtcSampled, Nat.add_assoc]

/-- A write transaction as one record equation: the link ends idle with the last data bit on its line (rules R201 and R205). -/
theorem memWrite_eq_idlePins (bank : Bool) (idx : BitVec 5) (data : Byte) (s : State) :
    s.memWrite bank idx data = { s with
      link := idlePins (lastBit s.params.rtcBitOrder data)
      trace := s.trace ++ writeEvents s.params.rtcBitOrder bank idx data } := by
  rw [State.memWrite_eq, lastBit, lineBit_eq_bitpos]
  rfl

/-- A read transaction as one record equation: the next eight answers make the byte, and the link ends idle with the 1 that ends
the command byte on its line (rules R201 and R206). -/
theorem memRead_eq_idlePins (bank : Bool) (idx : BitVec 5) (s : State) :
    s.memRead bank idx = (receivedByte s.params.rtcBitOrder s.env.rtcAnswer, { s with
      link := idlePins true
      trace := s.trace ++ readEvents s.params.rtcBitOrder bank idx s.env.rtcAnswer
      env := rtcSampled 8 s.env }) := by
  rw [State.memRead_eq, rtcCmd_read_last]
  rfl

/-! ### The operations' effect on the whole state -/

theorem exec_rtcReadReg (bank : Bool) (idx : BitVec 5) (s : State) :
    exec (.rtcReadReg bank idx) s = .next { s with
      link := idlePins true
      res := BitVec.ofNat 32 (receivedByte s.params.rtcBitOrder s.env.rtcAnswer).toNat
      trace := readEvents s.params.rtcBitOrder bank idx s.env.rtcAnswer
      env := rtcSampled 8 s.env } := by
  show Host.Outcome.next _ = _
  rw [memRead_eq_idlePins, resultZext_eq]
  rfl

theorem exec_rtcWriteReg (bank : Bool) (idx : BitVec 5) (data : Byte) (s : State) :
    exec (.rtcWriteReg bank idx data) s = .next { s with
      link := idlePins (lastBit s.params.rtcBitOrder data), res := 0
      trace := writeEvents s.params.rtcBitOrder bank idx data } :=
  congrArg Host.Outcome.next (memWrite_eq_idlePins bank idx data s.begin)

/-- A field read as an operation: one read transaction, its byte decoded. -/
theorem next_readField (r : RtcReg) (tm : Byte) (s : State) :
    Host.Outcome.next (φ := Fault) (ρ := Refusal) ((s.begin.readField r tm).2.resultZext (s.begin.readField r tm).1) =
      .next { s with
      link := idlePins true
      res := BitVec.ofNat 32 (unbcd (receivedByte s.params.rtcBitOrder s.env.rtcAnswer) tm).toNat
      trace := readEvents s.params.rtcBitOrder false r.idx s.env.rtcAnswer
      env := rtcSampled 8 s.env } := by
  rw [State.readField, State.readReg, memRead_eq_idlePins, resultZext_eq]
  rfl

/-- A field write as an operation: one write transaction of the encoded byte. -/
theorem writeReg_bcd (r : RtcReg) (v : Byte) (s : State) :
    s.begin.writeReg r (bcd v) = { s with
      link := idlePins (lastBit s.params.rtcBitOrder (encoded v)), res := 0
      trace := writeEvents s.params.rtcBitOrder false r.idx (encoded v) } := by
  rw [bcd_eq_encoded]
  exact memWrite_eq_idlePins false r.idx (encoded v) s.begin

theorem exec_rtcGetTime (s : State) :
    exec .rtcGetTime s = .next { s with
      link := idlePins true
      res := timeWord (unbcd (receivedByte s.params.rtcBitOrder s.env.rtcAnswer) tensMaskHours)
        (unbcd (receivedByte s.params.rtcBitOrder fun k => s.env.rtcAnswer (8 + k)) tensMaskSixty)
        (unbcd (receivedByte s.params.rtcBitOrder fun k => s.env.rtcAnswer (16 + k)) tensMaskSixty)
      trace := readEvents s.params.rtcBitOrder false 2 s.env.rtcAnswer ++
        readEvents s.params.rtcBitOrder false 1 (fun k => s.env.rtcAnswer (8 + k)) ++
        readEvents s.params.rtcBitOrder false 0 (fun k => s.env.rtcAnswer (16 + k))
      env := rtcSampled 24 s.env } := by
  show Host.Outcome.next _ = _
  simp only [State.timeSecondsRead, State.timeMinutesRead, State.timeHoursRead, State.readField, State.readReg,
    memRead_eq_idlePins, rtcAnswer_rtcSampled, rtcSampled_rtcSampled]
  rfl

theorem exec_rtcSetTime_of_le {h m sec : Byte} {s : State} (hadm : h.toNat ≤ 23 ∧ m.toNat ≤ 59 ∧ sec.toNat ≤ 59) :
    exec (.rtcSetTime h m sec) s = .next { s with
      link := idlePins (lastBit s.params.rtcBitOrder (encoded sec)), res := 0
      trace := writeEvents s.params.rtcBitOrder false 2 (encoded h) ++ writeEvents s.params.rtcBitOrder false 1 (encoded m) ++
        writeEvents s.params.rtcBitOrder false 0 (encoded sec) } := by
  refine (if_pos ((timeAdmitted_iff h m sec).2 hadm)).trans ?_
  simp only [State.writeReg, memWrite_eq_idlePins, bcd_eq_encoded]
  rfl

theorem exec_rtcSetTime_of_lt {h m sec : Byte} {s : State} (hout : 23 < h.toNat ∨ 59 < m.toNat ∨ 59 < sec.toNat) :
    exec (.rtcSetTime h m sec) s = .refused (.operandOutOfRange (wordT 0x5A h m sec)) := by
  refine if_neg fun hadm => ?_
  have hall := (timeAdmitted_iff h m sec).1 hadm
  omega

theorem exec_rtcInit (s : State) :
    exec .rtcInit s = .next { s with
      link := idlePins (lastBit s.params.rtcBitOrder
        (rtcForce24 s.params (receivedByte s.params.rtcBitOrder fun k => s.env.rtcAnswer (8 + k))))
      res := 0
      trace := writeEvents s.params.rtcBitOrder false 7 0x00 ++
        readEvents s.params.rtcBitOrder false 0 s.env.rtcAnswer ++
        writeEvents s.params.rtcBitOrder false 0 (receivedByte s.params.rtcBitOrder s.env.rtcAnswer &&& 0x7F#8) ++
        readEvents s.params.rtcBitOrder false 2 (fun k => s.env.rtcAnswer (8 + k)) ++
        writeEvents s.params.rtcBitOrder false 2
          (rtcForce24 s.params (receivedByte s.params.rtcBitOrder fun k => s.env.rtcAnswer (8 + k)))
      env := rtcSampled 16 s.env } := by
  show Host.Outcome.next _ = _
  simp only [State.initForce24, State.initStartClock, State.initUnprotect, State.writeReg, State.readReg,
    memRead_eq_idlePins, memWrite_eq_idlePins, rtcAnswer_rtcSampled, rtcSampled_rtcSampled]
  rfl

/-! ### The command words -/

/-- The word of format `RA` (rule R68). -/
theorem wordRA_eq_or (opcode : Byte) (bank : Bool) (idx : BitVec 5) :
    wordRA opcode bank idx = at32 opcode 24 ||| bit32 bank 13 ||| at32 idx 8 := by
  have hoperand : at32 (operandsRA bank idx) 0 = bit32 bank 13 ||| at32 idx 8 := by
    simp only [operandsRA, bit32, at32_append, at32_zero, BitVec.zero_or, BitVec.or_zero]
  rw [wordRA, wordOf_eq_or, hoperand, BitVec.or_assoc]

/-- The word of format `RW` (rule R68). -/
theorem wordRW_eq_or (opcode : Byte) (bank : Bool) (idx : BitVec 5) (data : Byte) :
    wordRW opcode bank idx data = at32 opcode 24 ||| bit32 bank 13 ||| at32 idx 8 ||| at32 data 0 := by
  have hoperand : at32 (operandsRW bank idx data) 0 = bit32 bank 13 ||| at32 idx 8 ||| at32 data 0 := by
    simp only [operandsRW, bit32, at32_append, at32_zero, BitVec.zero_or]
  rw [wordRW, wordOf_eq_or, hoperand]
  simp only [BitVec.or_assoc]

/-! ### The field operations -/

/-- An operation that is one field read decodes the answered byte under its tens mask. -/
theorem readsField_of_readField {i : Instr} {r : RtcReg} {tm : Byte} {n : Nat} (hdecode : ∀ b, (unbcd b tm).toNat = decoded b n)
    (hexec : ∀ s, exec i s = .next ((s.begin.readField r tm).2.resultZext (s.begin.readField r tm).1)) :
    ReadsField i r.idx n := by
  intro s
  refine ⟨_, assembles_receivedByte _ _, ?_⟩
  rw [hexec, next_readField, hdecode]
  rfl

/-- An operation that is one guarded field write encodes an admitted value and refuses the rest with its own word. -/
theorem writesField_of_writeReg {mk : Byte → Instr} {opcode : Byte} {r : RtcReg} {adm : Byte → Bool} {top : Nat}
    (hadm : ∀ v, adm v = true ↔ v.toNat ≤ top) (hencode : ∀ v, encode (mk v) = .command (wordByte opcode v))
    (hexec : ∀ v s, exec (mk v) s =
      if adm v then .next (s.begin.writeReg r (bcd v)) else .refused (.operandOutOfRange (wordByte opcode v))) :
    WritesField mk (at32 opcode 24) r.idx top := by
  intro v s
  rw [← wordByte_eq_or, hexec]
  refine ⟨hencode v, fun hle => ?_, fun hlt => if_neg fun h => ?_⟩
  · rw [if_pos ((hadm v).2 hle), writeReg_bcd]
  · exact Nat.not_le.2 hlt ((hadm v).1 h)

/-! ### The obligations -/

/-- Settles O32: the result is the byte the model assembles from the eight answers. -/
theorem rtcReadRegReturnsTheAnsweredByte : Obligations.RtcReadRegReturnsTheAnsweredByte := fun bank idx s =>
  ⟨congrArg Code.command (wordRA_eq_or 0x51 bank idx), _, assembles_receivedByte _ _, exec_rtcReadReg bank idx s⟩

/-- Settles O33: the operation is one write transaction. -/
theorem rtcWriteRegSendsTheByte : Obligations.RtcWriteRegSendsTheByte := fun bank idx data s =>
  ⟨congrArg Code.command (wordRW_eq_or 0x52 bank idx data), exec_rtcWriteReg bank idx data s⟩

/-- Settles O34: three field reads, of their own register under their own mask. -/
theorem rtcFieldGettersDecodeTheRegister : Obligations.RtcFieldGettersDecodeTheRegister :=
  ⟨rfl, rfl, rfl, readsField_of_readField (r := .seconds) unbcd_sixty_toNat fun _ => rfl,
    readsField_of_readField (r := .minutes) unbcd_sixty_toNat fun _ => rfl,
    readsField_of_readField (r := .hours) unbcd_hours_toNat fun _ => rfl⟩

/-- Settles O35: three guarded field writes, of their own register up to their own bound. -/
theorem rtcFieldSettersEncodeAndWrite : Obligations.RtcFieldSettersEncodeAndWrite :=
  ⟨writesField_of_writeReg (opcode := 0x56) (r := .seconds) sixtyAdmitted_iff (fun _ => rfl) fun _ _ => rfl,
    writesField_of_writeReg (opcode := 0x57) (r := .minutes) sixtyAdmitted_iff (fun _ => rfl) fun _ _ => rfl,
    writesField_of_writeReg (opcode := 0x58) (r := .hours) hoursAdmitted_iff (fun _ => rfl) fun _ _ => rfl⟩

/-- Settles O36: three field reads, each on the eight answers after the ones before it. -/
theorem rtcGetTimeReadsThreeFields : Obligations.RtcGetTimeReadsThreeFields := by
  refine ⟨rfl, fun s => ⟨_, _, _, assembles_receivedByte _ _, assembles_receivedByte _ _, assembles_receivedByte _ _, ?_⟩⟩
  rw [exec_rtcGetTime, timeWord_eq_ofNat, unbcd_hours_toNat, unbcd_sixty_toNat, unbcd_sixty_toNat]
  rfl

/-- Settles O37: one guard admits the three fields together, before the first event. -/
theorem rtcSetTimeWritesThreeFields : Obligations.RtcSetTimeWritesThreeFields := by
  intro h m sec s
  rw [show 0x5A000000#32 = at32 0x5A#8 24 from rfl, ← wordT_eq_or]
  exact ⟨rfl, fun hh hm hs => exec_rtcSetTime_of_le ⟨hh, hm, hs⟩, exec_rtcSetTime_of_lt⟩

/-- Settles O38: five transactions; with no exception listed, `rtc_force24` clears the flag alone. -/
theorem rtcInitRunsItsFiveTransactions : Obligations.RtcInitRunsItsFiveTransactions := by
  refine ⟨rfl, fun p h hnone => ?_, fun s => ⟨_, _, assembles_receivedByte _ _, assembles_receivedByte _ _, exec_rtcInit s⟩⟩
  rw [rtcForce24, hnone]
  rfl

/-- Settles O39: the link rows are the transactions of the raw accesses, under the command byte of rule R71. -/
theorem linkCommandBytesRunTheirTransaction : Obligations.LinkCommandBytesRunTheirTransaction := by
  intro bank idx data s
  simp only [rtcCmd_eq_linkByte]
  refine ⟨rfl, rfl, ?senderOfRead, ?senderOfWrite, ⟨_, assembles_receivedByte _ _, exec_rtcReadReg bank idx s⟩,
    exec_rtcWriteReg bank idx data s⟩
  case senderOfRead =>
    rw [senderOfLinkByte, decodeLink_read]
    rfl
  case senderOfWrite =>
    rw [senderOfLinkByte, decodeLink_write]
    rfl

/-- Settles O42: both digits of a time field fit the field's mask, and its encoding stays below the flag bits. -/
theorem bcdRoundTripsTimeFields : Obligations.BcdRoundTripsTimeFields := by
  intro v
  rw [bcd_eq_encoded]
  refine ⟨fun h => ⟨BitVec.eq_of_toNat_eq ?_, ?_⟩, fun h => ⟨BitVec.eq_of_toNat_eq ?_, ?_, ?_⟩⟩
  · rw [unbcd_sixty_toNat, decoded_encoded (by omega) (by omega)]
  · exact getLsbD_encoded_eq_false (by omega) (by omega)
  · rw [unbcd_hours_toNat, decoded_encoded (by omega) (by omega)]
  · exact getLsbD_encoded_eq_false (by omega) (by omega)
  · exact getLsbD_encoded_eq_false (by omega) (by omega)

end Sys2Proof.Proofs
end

section
/-! PROOFS. The RTC link as an observer sees it: the bits a chip takes, the counts of events and edges, an operation's trace as
a list of transactions, and the obligations on them. -/

namespace Sys2Proof.Proofs

open Sys2Proof.Machine Sys2Proof.Machine.Claims

/-! ### Bytes on the line -/

/-- The bits of a byte as they cross the line (rule R75). -/
def onWire (order : Config.BitOrder) (byte : Byte) : List Bool := bitIndices.map fun k => byte.getLsbD (bitpos order k)

theorem onWire_eq_onLine (order : Config.BitOrder) (byte : Byte) : onWire order byte = onLine order (bitsMsbFirst byte) := by
  cases order <;> rfl

/-- The command byte's bits, bit 7 first (rule R71). -/
theorem bitsMsbFirst_rtcCmd (bank : Bool) (idx : BitVec 5) (rd : Bool) :
    bitsMsbFirst (rtcCmd bank idx rd) =
      [true, bank, idx.getLsbD 4, idx.getLsbD 3, idx.getLsbD 2, idx.getLsbD 1, idx.getLsbD 0, rd] := by
  rw [rtcCmd_eq_linkByte, bitsMsbFirst]
  simp (disch := omega) only [linkByte_getLsbD]
  rfl

/-- The bank bit of what is sent after the command byte's first bit is the bank of the address. -/
theorem bankBit_rtcCmd (order : Config.BitOrder) (bank : Bool) (idx : BitVec 5) (rd : Bool) (more : List Bool) :
    bankBit order (onWire order (rtcCmd bank idx rd) ++ more) = some bank := by
  rw [onWire_eq_onLine, bitsMsbFirst_rtcCmd]
  cases order <;> rfl

/-! ### One transaction from an idle link -/

theorem eq_idlePins {p : LinkPins} (h : p.idle = true) : p = idlePins p.ioOut := by
  obtain ⟨ce, sclk, ioOe, ioOut⟩ := p
  simp only [LinkPins.idle, Bool.and_eq_true, Bool.not_eq_true'] at h
  obtain ⟨⟨rfl, rfl⟩, rfl⟩ := h
  rfl

/-! ### The observers, piece by piece of a trace -/

theorem bitsTaken_append (p : LinkPins) (es fs : List PinEvent) :
    bitsTaken p (es ++ fs) = bitsTaken p es ++ bitsTaken (es.foldl LinkPins.apply p) fs := by
  induction es generalizing p with
  | nil => rfl
  | cons e es ih =>
    rw [List.cons_append, bitsTaken, bitsTaken, ih]
    split <;> rfl

theorem edgeCount_append (wire : LinkPins → Bool) (level : Bool) (p : LinkPins) (es fs : List PinEvent) :
    edgeCount wire level p (es ++ fs) = edgeCount wire level p es + edgeCount wire level (es.foldl LinkPins.apply p) fs := by
  induction es generalizing p with
  | nil => exact (Nat.zero_add _).symm
  | cons e es ih => rw [List.cons_append, edgeCount, edgeCount, ih, Nat.add_assoc, List.foldl_cons]

/-- A wire that no event of a trace moves has no edge. -/
theorem edgeCount_eq_zero {wire : LinkPins → Bool} {es : List PinEvent}
    (h : ∀ e ∈ es, ∀ q : LinkPins, wire (q.apply e) = wire q) (level : Bool) (p : LinkPins) : edgeCount wire level p es = 0 := by
  induction es generalizing p with
  | nil => rfl
  | cons e es ih =>
    rw [List.forall_mem_cons] at h
    rw [edgeCount, ih h.2, h.1 p, if_neg fun hedge => hedge.1 hedge.2]

/-- While the block does not drive the data line, the chip takes no bit. -/
theorem bitsTaken_of_released {es : List PinEvent} (h : .oe true ∉ es) {p : LinkPins} (hp : p.ioOe = false) :
    bitsTaken p es = [] := by
  induction es generalizing p with
  | nil => rfl
  | cons e es ih =>
    rw [List.mem_cons, not_or] at h
    have hnext : (p.apply e).ioOe = false := by
      cases e with
      | oe v => exact Bool.eq_false_of_not_eq_true fun hv => h.1 (by rw [show v = true from hv])
      | _ => exact hp
    rw [bitsTaken, if_neg (by simp [hp]), ih h.2 hnext]

/-- Without a rise of chip-select, the bits taken join the transaction that is open. -/
theorem bitsByTransaction_of_no_rise {es : List PinEvent} (h : .ce true ∉ es) (p : LinkPins) (bits : List Bool)
    (rest : List PinEvent) :
    bitsByTransaction p (some bits) (es ++ rest) =
      bitsByTransaction (es.foldl LinkPins.apply p) (some (bits ++ bitsTaken p es)) rest := by
  induction es generalizing p bits with
  | nil => simp [bitsTaken]
  | cons e es ih =>
    rw [List.mem_cons, not_or] at h
    have hrise : ¬(p.ce = false ∧ (p.apply e).ce = true) := by
      rintro ⟨hlow, hhigh⟩
      cases e with
      | ce v => exact h.1 (by rw [show v = true from hhigh])
      | _ => exact Bool.false_ne_true (hlow.symm.trans hhigh)
    rw [List.cons_append, bitsByTransaction, if_neg hrise, bitsTaken, List.foldl_cons]
    split
    · rw [Option.map_some, ih h.2, List.append_assoc, List.singleton_append]
    · rw [ih h.2]

/-! ### The pieces of a transaction -/

/-- The events that send one bit (rule R203). -/
def bitEvents (v : Bool) : List PinEvent := [.sclk false, .io v, .wait, .sclk true, .wait]

/-- The pins while a transaction sends, from its first bit on. -/
def sendingPins (sclk level : Bool) : LinkPins := { ce := true, sclk := sclk, ioOe := true, ioOut := level }

theorem foldl_outEvents (order : Config.BitOrder) (byte : Byte) (sclk level : Bool) :
    (outEvents order byte).foldl LinkPins.apply (sendingPins sclk level) = sendingPins true (lastBit order byte) := by
  cases order <;> rfl

/-- The chip takes exactly the bits that are sent. -/
theorem bitsTaken_bitEvents (bits : List Bool) (sclk level : Bool) :
    bitsTaken (sendingPins sclk level) (bits.flatMap bitEvents) = bits := by
  induction bits generalizing sclk level with
  | nil => rfl
  | cons v bits ih =>
    have hbit : bitsTaken (sendingPins sclk level) (bitEvents v) = [v] := by cases sclk <;> rfl
    rw [List.flatMap_cons, bitsTaken_append, hbit]
    exact congrArg (v :: ·) (ih true v)

/-- Each bit that is sent has one rising clock edge. -/
theorem edgeCount_sclk_bitEvents (bits : List Bool) (sclk level : Bool) :
    edgeCount LinkPins.sclk true (sendingPins sclk level) (bits.flatMap bitEvents) = bits.length := by
  induction bits generalizing sclk level with
  | nil => rfl
  | cons v bits ih =>
    have hbit : edgeCount LinkPins.sclk true (sendingPins sclk level) (bitEvents v) = 1 := by cases sclk <;> rfl
    rw [List.flatMap_cons, edgeCount_append, hbit, List.length_cons, Nat.add_comm]
    exact congrArg (· + 1) (ih true v)

/-! ### Whole transactions from an idle link -/

section Transactions

variable (order : Config.BitOrder) (level bank : Bool) (idx : BitVec 5) (byte data : Byte) (v : Nat → Bool)

theorem foldl_startEvents : startEvents.foldl LinkPins.apply (idlePins level) = sendingPins false level := rfl

/-- What a read transaction emits once its command byte is sent. -/
def answerEvents (v : Nat → Bool) : List PinEvent := [.oe false] ++ inEvents v ++ closeEvents

theorem readEvents_eq : readEvents order bank idx v = startEvents ++ outEvents order (rtcCmd bank idx true) ++ answerEvents v := by
  simp only [readEvents, answerEvents, List.append_assoc]

theorem bitsTaken_outEvents (sclk : Bool) : bitsTaken (sendingPins sclk level) (outEvents order byte) = onWire order byte :=
  bitsTaken_bitEvents (onWire order byte) sclk level

theorem edgeCount_sclk_outEvents (sclk : Bool) :
    edgeCount LinkPins.sclk true (sendingPins sclk level) (outEvents order byte) = 8 :=
  edgeCount_sclk_bitEvents (onWire order byte) sclk level

theorem ce_not_mem_outEvents : .ce level ∉ outEvents order byte := by
  intro h
  obtain ⟨_, _, hbit⟩ := List.mem_flatMap.1 h
  simp at hbit

theorem edgeCount_ce_outEvents (edge : Bool) (p : LinkPins) : edgeCount LinkPins.ce edge p (outEvents order byte) = 0 := by
  refine edgeCount_eq_zero (fun e he q => ?_) edge p
  cases e with
  | ce level => exact absurd he (ce_not_mem_outEvents order level byte)
  | _ => rfl

theorem bitsTaken_answerEvents : bitsTaken (sendingPins true level) (answerEvents v) = [] := by
  have hreleased : bitsTaken { sendingPins true level with ioOe := false } (inEvents v ++ closeEvents) = [] :=
    bitsTaken_of_released (by simp [inEvents, bitIndices, closeEvents]) rfl
  rw [answerEvents, List.append_assoc, bitsTaken_append]
  exact hreleased

theorem edgeCount_answerEvents :
    edgeCount LinkPins.ce true (sendingPins true level) (answerEvents v) = 0 ∧
      edgeCount LinkPins.ce false (sendingPins true level) (answerEvents v) = 1 ∧
      edgeCount LinkPins.sclk true (sendingPins true level) (answerEvents v) = 7 := by
  simp [answerEvents, inEvents, bitIndices, closeEvents, edgeCount, LinkPins.apply, sendingPins]

/-- From an idle link, the chip takes the command byte and the data byte of a write. -/
theorem bitsTaken_writeEvents : bitsTaken (idlePins level) (writeEvents order bank idx data) =
    onWire order (rtcCmd bank idx false) ++ onWire order data := by
  have hstart : bitsTaken (idlePins level) startEvents = [] := rfl
  have hclose : bitsTaken (sendingPins true (lastBit order data)) closeEvents = [] := rfl
  simp only [writeEvents, bitsTaken_append, List.foldl_append, foldl_startEvents, foldl_outEvents, bitsTaken_outEvents, hstart,
    hclose, List.nil_append, List.append_nil]

/-- From an idle link, the chip takes the command byte of a read. -/
theorem bitsTaken_readEvents :
    bitsTaken (idlePins level) (readEvents order bank idx v) = onWire order (rtcCmd bank idx true) := by
  have hstart : bitsTaken (idlePins level) startEvents = [] := rfl
  simp only [readEvents_eq, bitsTaken_append, List.foldl_append, foldl_startEvents, foldl_outEvents, bitsTaken_outEvents,
    bitsTaken_answerEvents, hstart, List.nil_append, List.append_nil]

theorem writeEvents_counts :
    (writeEvents order bank idx data).length = 89 ∧ waitCount (writeEvents order bank idx data) = 35 ∧
      sampledLevels (writeEvents order bank idx data) = [] ∧
      edgeCount LinkPins.ce true (idlePins level) (writeEvents order bank idx data) = 1 ∧
      edgeCount LinkPins.ce false (idlePins level) (writeEvents order bank idx data) = 1 ∧
      edgeCount LinkPins.sclk true (idlePins level) (writeEvents order bank idx data) = 16 := by
  refine ⟨rfl, rfl, rfl, ?_, ?_, ?_⟩ <;>
    simp only [writeEvents, edgeCount_append, List.foldl_append, foldl_startEvents, foldl_outEvents, edgeCount_ce_outEvents,
      edgeCount_sclk_outEvents] <;>
    rfl

theorem readEvents_counts :
    (readEvents order bank idx v).length = 88 ∧ waitCount (readEvents order bank idx v) = 34 ∧
      sampledLevels (readEvents order bank idx v) = (List.range 8).map v ∧
      edgeCount LinkPins.ce true (idlePins level) (readEvents order bank idx v) = 1 ∧
      edgeCount LinkPins.ce false (idlePins level) (readEvents order bank idx v) = 1 ∧
      edgeCount LinkPins.sclk true (idlePins level) (readEvents order bank idx v) = 15 := by
  obtain ⟨hrise, hfall, hclock⟩ := edgeCount_answerEvents (lastBit order (rtcCmd bank idx true)) v
  refine ⟨rfl, rfl, rfl, ?_, ?_, ?_⟩ <;>
    simp only [readEvents_eq, edgeCount_append, List.foldl_append, foldl_startEvents, foldl_outEvents, edgeCount_ce_outEvents,
      edgeCount_sclk_outEvents, hrise, hfall, hclock] <;>
    rfl

end Transactions

/-! ### A trace as a list of transactions -/

/-- One transaction on the link, a write or a read whose k-th sample is answered `v k` (rules R205 and R206). -/
inductive Transaction where
  | write (bank : Bool) (idx : BitVec 5) (data : Byte)
  | read (bank : Bool) (idx : BitVec 5) (v : Nat → Bool)

/-- The bank the transaction addresses. -/
def Transaction.bank : Transaction → Bool
  | .write bank _ _ => bank
  | .read bank _ _ => bank

/-- The events of the transaction. -/
def Transaction.events (order : Config.BitOrder) : Transaction → List PinEvent
  | .write bank idx data => writeEvents order bank idx data
  | .read bank idx v => readEvents order bank idx v

/-- The bits the chip takes in the transaction. -/
def Transaction.bits (order : Config.BitOrder) : Transaction → List Bool
  | .write bank idx data => onWire order (rtcCmd bank idx false) ++ onWire order data
  | .read bank idx _ => onWire order (rtcCmd bank idx true)

theorem bankBit_bits (order : Config.BitOrder) (x : Transaction) : bankBit order (x.bits order) = some x.bank := by
  cases x with
  | write bank idx data => exact bankBit_rtcCmd order bank idx false _
  | read bank idx v => exact (congrArg _ (List.append_nil _).symm).trans (bankBit_rtcCmd order bank idx true [])

section TransactionEvents

variable (order : Config.BitOrder) (level : Bool) (x : Transaction)

/-- Chip-select rises once in a transaction, at its start. -/
theorem exists_events_eq_start_append : ∃ es, .ce true ∉ es ∧ x.events order = startEvents ++ es := by
  cases x with
  | write bank idx data =>
    refine ⟨outEvents order (rtcCmd bank idx false) ++ outEvents order data ++ closeEvents, ?_, ?_⟩
    · simp [ce_not_mem_outEvents, closeEvents]
    · simp only [Transaction.events, writeEvents, List.append_assoc]
  | read bank idx v =>
    refine ⟨outEvents order (rtcCmd bank idx true) ++ answerEvents v, ?_, ?_⟩
    · simp [ce_not_mem_outEvents, answerEvents, inEvents, bitIndices, closeEvents]
    · simp only [Transaction.events, readEvents_eq, List.append_assoc]

/-- A transaction from an idle link leaves it idle (rule R201). -/
theorem exists_foldl_events : ∃ level', (x.events order).foldl LinkPins.apply (idlePins level) = idlePins level' := by
  cases x with
  | write bank idx data =>
    simp only [Transaction.events, writeEvents, List.foldl_append, foldl_startEvents, foldl_outEvents]
    exact ⟨_, rfl⟩
  | read bank idx v =>
    simp only [Transaction.events, readEvents_eq, List.foldl_append, foldl_startEvents, foldl_outEvents]
    exact ⟨_, rfl⟩

theorem bitsTaken_events : bitsTaken (idlePins level) (x.events order) = x.bits order := by
  cases x with
  | write bank idx data => exact bitsTaken_writeEvents order level bank idx data
  | read bank idx v => exact bitsTaken_readEvents order level bank idx v

/-- From an idle link, a transaction ends the list that was open and opens one of its own bits. -/
theorem bitsByTransaction_events (bits : Option (List Bool)) (rest : List PinEvent) :
    ∃ level', bitsByTransaction (idlePins level) bits (x.events order ++ rest) =
      bits.toList ++ bitsByTransaction (idlePins level') (some (x.bits order)) rest := by
  obtain ⟨es, hrise, hes⟩ := exists_events_eq_start_append order x
  obtain ⟨level', hpins⟩ := exists_foldl_events order level x
  have hopen : bitsByTransaction (idlePins level) bits (startEvents ++ (es ++ rest)) =
      bits.toList ++ bitsByTransaction (sendingPins false level) (some []) (es ++ rest) := by cases bits <;> rfl
  refine ⟨level', ?_⟩
  rw [← bitsTaken_events order level, ← hpins, hes, List.append_assoc, hopen, bitsByTransaction_of_no_rise hrise]
  rfl

end TransactionEvents

/-- From an idle link, a trace of transactions is seen as those transactions. -/
theorem bitsByTransaction_flatMap_events (order : Config.BitOrder) (xs : List Transaction) (level : Bool)
    (bits : Option (List Bool)) :
    bitsByTransaction (idlePins level) bits (xs.flatMap (Transaction.events order)) =
      bits.toList ++ xs.map (Transaction.bits order) := by
  induction xs generalizing level bits with
  | nil => cases bits <;> rfl
  | cons x xs ih =>
    obtain ⟨level', hx⟩ := bitsByTransaction_events order level x bits (xs.flatMap (Transaction.events order))
    rw [List.flatMap_cons, hx, ih, Option.toList_some, List.map_cons, List.singleton_append]

/-! ### The transactions of an operation -/

/-- The bank an operation addresses: the operand of a raw access or of a link row, and bank 0 otherwise (rule R42). -/
def addressedBank : Instr → Bool
  | .rtcReadReg bank _ | .rtcWriteReg bank _ _ | .rtcLinkCmdRead bank _ | .rtcLinkCmdWrite bank _ _ => bank
  | _ => false

/-- The trace is a list of transactions, all in one bank. -/
def InBank (order : Config.BitOrder) (bank : Bool) (trace : List PinEvent) : Prop :=
  ∃ xs : List Transaction, trace = xs.flatMap (Transaction.events order) ∧ ∀ x ∈ xs, x.bank = bank

section InBank

variable {order : Config.BitOrder} {bank : Bool}

theorem inBank_events (x : Transaction) : InBank order x.bank (x.events order) :=
  ⟨[x], (List.flatMap_singleton _ _).symm, fun _ hy => congrArg Transaction.bank (List.mem_singleton.1 hy)⟩

theorem inBank_writeEvents (idx : BitVec 5) (data : Byte) : InBank order bank (writeEvents order bank idx data) :=
  inBank_events (.write bank idx data)

theorem inBank_readEvents (idx : BitVec 5) (v : Nat → Bool) : InBank order bank (readEvents order bank idx v) :=
  inBank_events (.read bank idx v)

theorem InBank.append {es fs : List PinEvent} (hes : InBank order bank es) (hfs : InBank order bank fs) :
    InBank order bank (es ++ fs) := by
  obtain ⟨xs, rfl, hxs⟩ := hes
  obtain ⟨ys, rfl, hys⟩ := hfs
  exact ⟨xs ++ ys, List.flatMap_append.symm, List.forall_mem_append.2 ⟨hxs, hys⟩⟩

end InBank

/-! ### The obligations -/

/-- Settles O40: from an idle link the pins are the idle ones, and the counts do not depend on the bits that are sent. -/
theorem transactionsHaveTheStatedCounts : Obligations.TransactionsHaveTheStatedCounts := by
  intro bank idx data s t hidle
  rw [eq_idlePins hidle]
  refine ⟨fun h => ?_, fun h => ?_⟩
  · cases (exec_rtcWriteReg bank idx data s).symm.trans h
    exact writeEvents_counts _ _ bank idx data
  · cases (exec_rtcReadReg bank idx s).symm.trans h
    exact readEvents_counts _ _ bank idx _

/-- Settles O41: what the chip takes is what is sent while the block drives the line. -/
theorem wireCarriesCommandAndData : Obligations.WireCarriesCommandAndData := by
  intro bank idx data s t hidle
  rw [eq_idlePins hidle, ← bitsMsbFirst_rtcCmd, ← bitsMsbFirst_rtcCmd, ← onWire_eq_onLine, ← onWire_eq_onLine,
    ← onWire_eq_onLine]
  refine ⟨fun h => ?_, fun h => ?_⟩
  · cases (exec_rtcWriteReg bank idx data s).symm.trans h
    exact bitsTaken_writeEvents _ _ bank idx data
  · cases (exec_rtcReadReg bank idx s).symm.trans h
    exact bitsTaken_readEvents _ _ bank idx _

end Sys2Proof.Proofs
end

section
/-! PROOFS. The whole machine, what operations change: an inversion of every operation that completes, and from it the
statements on owners, pins, samples and noninterference. -/

namespace Sys2Proof.Proofs

open Sys2Proof.Machine Sys2Proof.Machine.Claims
open Config (Params)

/-! ### What a completed operation may have changed -/

/-- The environment after operation `i`: the samples it takes are all it changes (rules R28 and R32). -/
def envAfter (i : Instr) (e : Env) : Env :=
  { e with btnDraws := e.btnDraws + buttonSamplesOf i, rtcDraws := e.rtcDraws + 8 * readsOf i }

/-- `Effect i s t`: `t` differs from `s` by no more than what operation `i`, by its unit, may write (rules R10 and R43). -/
inductive Effect (i : Instr) (s : State) : State → Prop where
  | db (d : Debouncer) (r : Word) (hunit : i.unit = .db) :
    Effect i s { s with db := d, res := r, trace := [], env := envAfter i s.env }
  | cal (c : Calibrator) (r : Word) (hunit : i.unit = .cal) :
    Effect i s { s with cal := c, res := r, trace := [], env := envAfter i s.env }
  | sw (d : Debouncer) (c : Classifier) (r : Word) (hunit : i.unit = .sw) (hdb : i ≠ .swSample → d = s.db) :
    Effect i s { s with db := d, sw := c, res := r, trace := [], env := envAfter i s.env }
  | dp (d : Display) (p : DisplayPins) (hunit : i.unit = .dp) (hpins : i ≠ .dpUpdate → p = s.pins) :
    Effect i s { s with dp := d, pins := p, res := 0, trace := [], env := envAfter i s.env }
  | link (level : Bool) (r : Word) (es : List PinEvent) (hunit : i.unit = .rtc ∨ i.unit = .link)
    (hbank : InBank s.params.rtcBitOrder (addressedBank i) es) :
    Effect i s { s with link := idlePins level, res := r, trace := es, env := envAfter i s.env }

/-- A guarded operation that completes has passed its guard. -/
theorem eq_of_guarded {b : Bool} {x t : State} {r : Refusal}
    (h : (if b then Host.Outcome.next (φ := Fault) x else .refused r) = .next t) : b = true ∧ x = t := by
  cases b with
  | true => exact ⟨rfl, Host.Outcome.next.inj h⟩
  | false => cases h

/-- `CAL_LIT` that completes changes nothing but its result. -/
theorem exec_calLit_eq_next {modulo : Byte} {s t : State} (h : exec (.calLit modulo) s = .next t) :
    s.cal.subPeriod modulo ≠ 0 ∧ ∃ r, t = { s with res := r, trace := [] } := by
  by_cases hsub : s.cal.subPeriod modulo = 0
  · cases (execCalLit_of_subPeriod_eq_zero hsub).symm.trans h
  · cases (execCalLit_of_subPeriod_ne_zero hsub).symm.trans h
    exact ⟨hsub, _, rfl⟩

/-- `SW_PUSH_LENGTH` that completes changes nothing but its result. -/
theorem exec_swPushLength_eq_next {s t : State} (h : exec .swPushLength s = .next t) :
    ∃ r, t = { s with res := r, trace := [] } := by
  cases hlength : s.sw.pushLength with
  | ok pl =>
    cases (execSwPushLength_of_ok hlength).symm.trans h
    exact ⟨_, rfl⟩
  | error f => cases (execSwPushLength_of_error hlength).symm.trans h

/-- `SW_SAMPLE` that completes leaves the retuned and debounced state, its classifier replaced by what step 3 makes of it. -/
theorem exec_swSample_eq_next {s t : State} (h : exec .swSample s = .next t) :
    ∃ c, (sampledOnce (retuned s)).sw.classify s.params (sampledOnce (retuned s)).db.pressed = .ok c ∧
      t = { sampledOnce (retuned s) with sw := c } := by
  rw [← sampledOnce_retuned_params s]
  cases hclass : (sampledOnce (retuned s)).sw.classify (sampledOnce (retuned s)).params (sampledOnce (retuned s)).db.pressed with
  | ok c =>
    cases (execSwSample_of_ok rfl hclass).symm.trans h
    exact ⟨c, rfl, rfl⟩
  | error f => cases (execSwSample_of_error rfl hclass).symm.trans h

/-- Outside the two units it tunes, the retune changes nothing. -/
theorem retuned_eq (s : State) : retuned s = { s with db := (retuned s).db, sw := (retuned s).sw } := by
  rw [retuned]
  split <;> rfl

theorem exec_effect {i : Instr} {s t : State} (h : exec i s = .next t) : Effect i s t := by
  cases i with
  | dbSample | dbGet => cases h; exact .db _ _ rfl
  | dbSetSamples n => obtain ⟨-, rfl⟩ := eq_of_guarded h; exact .db _ _ rfl
  | calCalibrate _ _ _ | calCalibrated | calCps | calReset => cases h; exact .cal _ _ rfl
  | calLit modulo => obtain ⟨-, r, rfl⟩ := exec_calLit_eq_next h; exact .cal _ _ rfl
  | swSample =>
    obtain ⟨c, -, rfl⟩ := exec_swSample_eq_next h
    rw [sampledOnce, retuned_eq]
    exact .sw _ _ _ rfl fun hne => absurd rfl hne
  | swPushLength => obtain ⟨r, rfl⟩ := exec_swPushLength_eq_next h; exact .sw _ _ _ rfl fun _ => rfl
  | swReportCurrent | swReportLast | swResetPressState => cases h; exact .sw _ _ _ rfl fun _ => rfl
  | swSetThreshold n => obtain ⟨-, rfl⟩ := eq_of_guarded h; exact .sw _ _ _ rfl fun _ => rfl
  | dpUpdate => cases h; exact .dp _ _ rfl fun hne => absurd rfl hne
  | dpSetDp _ _ | dpSetAllDps _ | dpSetDigitEnabled _ _ | dpSetAllDigitsEnabled _ | dpSetEnabled _ =>
    cases h; exact .dp _ _ rfl fun _ => rfl
  | dpSetDigit _ _ | dpSetDigits _ _ _ _ => obtain ⟨-, rfl⟩ := eq_of_guarded h; exact .dp _ _ rfl fun _ => rfl
  | rtcInit =>
    cases (exec_rtcInit s).symm.trans h
    exact .link _ _ _ (.inl rfl) (((((inBank_writeEvents _ _).append (inBank_readEvents _ _)).append
      (inBank_writeEvents _ _)).append (inBank_readEvents _ _)).append (inBank_writeEvents _ _))
  | rtcReadReg bank idx =>
    cases (exec_rtcReadReg bank idx s).symm.trans h
    exact .link _ _ _ (.inl rfl) (inBank_readEvents _ _)
  | rtcWriteReg bank idx data =>
    cases (exec_rtcWriteReg bank idx data s).symm.trans h
    exact .link _ _ _ (.inl rfl) (inBank_writeEvents _ _)
  | rtcGetSeconds =>
    cases (next_readField .seconds tensMaskSixty s).symm.trans h
    exact .link _ _ _ (.inl rfl) (inBank_readEvents _ _)
  | rtcGetMinutes =>
    cases (next_readField .minutes tensMaskSixty s).symm.trans h
    exact .link _ _ _ (.inl rfl) (inBank_readEvents _ _)
  | rtcGetHours =>
    cases (next_readField .hours tensMaskHours s).symm.trans h
    exact .link _ _ _ (.inl rfl) (inBank_readEvents _ _)
  | rtcSetSeconds _ | rtcSetMinutes _ | rtcSetHours _ =>
    obtain ⟨-, rfl⟩ := eq_of_guarded h
    rw [writeReg_bcd]
    exact .link _ _ _ (.inl rfl) (inBank_writeEvents _ _)
  | rtcGetTime =>
    cases (exec_rtcGetTime s).symm.trans h
    exact .link _ _ _ (.inl rfl) (((inBank_readEvents _ _).append (inBank_readEvents _ _)).append (inBank_readEvents _ _))
  | rtcSetTime hours minutes seconds =>
    have hadm := (timeAdmitted_iff hours minutes seconds).1 (eq_of_guarded h).1
    cases (exec_rtcSetTime_of_le hadm).symm.trans h
    exact .link _ _ _ (.inl rfl) (((inBank_writeEvents _ _).append (inBank_writeEvents _ _)).append (inBank_writeEvents _ _))
  | rtcLinkCmdRead bank idx =>
    cases (exec_rtcReadReg bank idx s).symm.trans h
    exact .link _ _ _ (.inr rfl) (inBank_readEvents _ _)
  | rtcLinkCmdWrite bank idx data =>
    cases (exec_rtcWriteReg bank idx data s).symm.trans h
    exact .link _ _ _ (.inr rfl) (inBank_writeEvents _ _)

/-! ### The step on a command word that runs -/

theorem runWord_of_ok {cw : Word} {i : Instr} (h : decodeWord cw = .ok i) (s : State) : runWord cw s = exec i s := by
  rw [runWord, h]

/-- A step that completes on a command word has run the operation the word decodes to. -/
theorem step_issue_eq_next {s t : State} {cw : Word} {rest : List Input} (hinputs : s.inputs = .issue cw :: rest)
    (h : step s = .next t) : ∃ i, decode (.command cw) = .ok i ∧ exec i { s with inputs := rest } = .next t := by
  rw [step_of_issue hinputs] at h
  cases hdecode : decodeWord cw with
  | ok i => exact ⟨i, hdecode, (runWord_of_ok hdecode _).symm.trans h⟩
  | error r => cases (runWord_of_error hdecode _).symm.trans h

/-- No command word decodes to a link row (rule R71). -/
theorem unit_ne_link_of_decode_command {cw : Word} {i : Instr} (h : decode (.command cw) = .ok i) : i.unit ≠ .link := by
  have hencode := encode_of_decodeWord_eq_ok h
  cases i with
  | rtcLinkCmdRead _ _ | rtcLinkCmdWrite _ _ _ => cases hencode
  | _ => exact UnitCode.noConfusion

/-! ### The RTC data line and the other units -/

/-- The state with another RTC data line. -/
def withLine (script : List Bool) (draws : Nat) (s : State) : State := { s with env := withRtcAnswers s.env script draws }

/-- The retune and the debouncer step take nothing from the RTC data line. -/
theorem sampledOnce_retuned_withLine (script : List Bool) (draws : Nat) (s : State) :
    sampledOnce (retuned (withLine script draws s)) = withLine script draws (sampledOnce (retuned s)) := by
  have hretuned : retuned (withLine script draws s) = withLine script draws (retuned s) := by
    rw [retuned, retuned, apply_ite (withLine script draws)]
    rfl
  rw [hretuned]
  rfl

/-! ### The obligations -/

/-- Settles O30: of the effects an operation can have, only that of the display unit names the pins. -/
theorem onlyDpUpdateMovesDisplayPins : Obligations.OnlyDpUpdateMovesDisplayPins := by
  intro i s t hne h
  cases exec_effect h with
  | dp d p _ hpins => exact hpins hne
  | _ => rfl

/-- Settles O53: each effect names registers of the operation's own unit, and `SW_SAMPLE`'s the debouncer's. -/
theorem unitsOwnTheirRegisters : Obligations.UnitsOwnTheirRegisters := by
  intro i s t h
  cases exec_effect h with
  | db d r hunit =>
    exact ⟨fun hne => absurd hunit hne, fun _ => rfl, fun _ => rfl, fun _ => ⟨rfl, rfl⟩, fun _ _ => ⟨rfl, rfl⟩, rfl⟩
  | cal c r hunit =>
    exact ⟨fun _ _ => rfl, fun hne => absurd hunit hne, fun _ => rfl, fun _ => ⟨rfl, rfl⟩, fun _ _ => ⟨rfl, rfl⟩, rfl⟩
  | sw d c r hunit hdb =>
    exact ⟨fun _ => hdb, fun _ => rfl, fun hne => absurd hunit hne, fun _ => ⟨rfl, rfl⟩, fun _ _ => ⟨rfl, rfl⟩, rfl⟩
  | dp d p hunit =>
    exact ⟨fun _ _ => rfl, fun _ => rfl, fun _ => rfl, fun hne => absurd hunit hne, fun _ _ => ⟨rfl, rfl⟩, rfl⟩
  | link level r es hunit _ =>
    exact ⟨fun _ _ => rfl, fun _ => rfl, fun _ => rfl, fun _ => ⟨rfl, rfl⟩,
      fun hrtc hlink => absurd hunit (not_or.2 ⟨hrtc, hlink⟩), rfl⟩

/-- Settles O57: every effect leaves the environment `envAfter` the operation. -/
theorem environmentIsSampledOnlyWhereStated : Obligations.EnvironmentIsSampledOnlyWhereStated := by
  intro i s t h
  cases exec_effect h with
  | _ => exact ⟨rfl, rfl⟩

/-- Settles O58: no guard, quotient or level that another unit's operation reads is one of the data line. -/
theorem rtcLineDoesNotInfluenceOtherUnits : Obligations.RtcLineDoesNotInfluenceOtherUnits := by
  intro i s t script draws hrtc hlink h
  show exec i (withLine script draws s) = .next (withLine script draws t)
  cases i with
  | dbSample | dbGet | calCalibrate _ _ _ | calCalibrated | calCps | calReset | swReportCurrent | swReportLast
  | swResetPressState | dpUpdate | dpSetDp _ _ | dpSetAllDps _ | dpSetDigitEnabled _ _ | dpSetAllDigitsEnabled _
  | dpSetEnabled _ =>
    cases h
    rfl
  | dbSetSamples _ | swSetThreshold _ | dpSetDigit _ _ | dpSetDigits _ _ _ _ =>
    obtain ⟨hadm, rfl⟩ := eq_of_guarded h
    exact if_pos hadm
  | calLit modulo =>
    obtain ⟨hsub, -⟩ := exec_calLit_eq_next h
    cases (execCalLit_of_subPeriod_ne_zero hsub).symm.trans h
    exact execCalLit_of_subPeriod_ne_zero hsub
  | swPushLength =>
    cases hlength : s.sw.pushLength with
    | ok pl =>
      cases (execSwPushLength_of_ok hlength).symm.trans h
      exact execSwPushLength_of_ok hlength
    | error f => cases (execSwPushLength_of_error hlength).symm.trans h
  | swSample =>
    obtain ⟨c, hclass, rfl⟩ := exec_swSample_eq_next h
    rw [← sampledOnce_retuned_params s] at hclass
    exact execSwSample_of_ok (sampledOnce_retuned_withLine script draws s).symm hclass
  | rtcInit | rtcReadReg _ _ | rtcWriteReg _ _ _ | rtcGetSeconds | rtcGetMinutes | rtcGetHours | rtcSetSeconds _
  | rtcSetMinutes _ | rtcSetHours _ | rtcGetTime | rtcSetTime _ _ _ => exact absurd rfl hrtc
  | rtcLinkCmdRead _ _ | rtcLinkCmdWrite _ _ _ => exact absurd rfl hlink

/-- Settles O46: the step takes the word and runs what it decodes to. -/
theorem stepRunsTheDecodedInstruction : Obligations.StepRunsTheDecodedInstruction := by
  intro s cw rest i hinputs hdecode
  rw [step_of_issue hinputs]
  exact runWord_of_ok hdecode _

/-- Settles O48: the two other things the host can do, hand over nothing and reset. -/
theorem stepWaitsAndResets : Obligations.StepWaitsAndResets := by
  intro s
  refine ⟨fun hnone => ?_, fun rest hrst => ?_⟩
  · rw [step, hnone]
  · rw [step, hrst]
    rfl

/-- Settles O59: a step with an effect on the link has run an operation of the RTC unit, as no command word is a link row. -/
theorem onlyRtcOperationsReachTheLink : Obligations.OnlyRtcOperationsReachTheLink := by
  intro s t cw rest hinputs hstep hreached
  obtain ⟨i, hdecode, hexec⟩ := step_issue_eq_next hinputs hstep
  refine ⟨i, hdecode, ?_⟩
  by_contra hrtc
  obtain ⟨-, -, -, -, hlink, -⟩ := unitsOwnTheirRegisters i _ t hexec
  obtain ⟨hsame, hquiet⟩ := hlink hrtc (unit_ne_link_of_decode_command hdecode)
  exact hreached.elim (absurd hquiet) (absurd hsame)

/-- Settles O60: the transactions seen are those of the operation the word decodes to, whose bank is 1 for raw accesses only. -/
theorem onlyRawAccessReachesBankOne : Obligations.OnlyRawAccessReachesBankOne := by
  intro s t cw rest bits hidle hinputs hstep hbits hbank
  obtain ⟨i, hdecode, hexec⟩ := step_issue_eq_next hinputs hstep
  have hlink := unit_ne_link_of_decode_command hdecode
  cases exec_effect hexec with
  | link level r es _ hinBank =>
    obtain ⟨xs, rfl, hxs⟩ := hinBank
    rw [eq_idlePins hidle, bitsByTransaction_flatMap_events] at hbits
    obtain ⟨x, hx, rfl⟩ := List.mem_map.1 hbits
    rw [bankBit_bits, hxs x hx, Option.some_inj] at hbank
    cases i with
    | rtcReadReg bank idx => exact .inl ⟨idx, hdecode.trans (by rw [show bank = true from hbank])⟩
    | rtcWriteReg bank idx data => exact .inr ⟨idx, data, hdecode.trans (by rw [show bank = true from hbank])⟩
    | rtcLinkCmdRead _ _ | rtcLinkCmdWrite _ _ _ => exact absurd rfl hlink
    | _ => cases hbank
  | _ => cases hbits

end Sys2Proof.Proofs
end

section
/-! PROOFS. The invariant of the state: said unit by unit, kept by the operations of each unit, by reset and so by every step. -/

namespace Sys2Proof.Proofs

open Sys2Proof.Machine Sys2Proof.Machine.Claims
open Config (Params)

/-! ### The invariant, unit by unit -/

/-- The debouncer's registers are values of `CNT_W` bits (rules R11 and R12). -/
structure DebouncerInv (p : Params) (d : Debouncer) : Prop where
  threshold : d.debounceSamples.toNat ≤ p.cntMax
  counter : d.counter.toNat ≤ p.cntMax

/-- The calibrator's counters are values of `CNT_W` bits (rules R14 and R15). -/
structure CalibratorInv (p : Params) (c : Calibrator) : Prop where
  estimate : c.cyclesPerSecond.toNat ≤ p.cntMax
  cycles : c.cycles.toNat ≤ p.cntMax

/-- The classifier's registers have their widths (rules R17 to R19), and while it waits it holds no press (R35 (d)). -/
structure ClassifierInv (p : Params) (c : Classifier) : Prop where
  threshold : c.thresholdSamples.toNat ≤ p.cntMax
  counter : c.counter.toNat ≤ p.cntMax
  current : c.currentPressLength.toNat < 2 * p.cntValues
  last : c.lastPressLength.toNat < 2 * p.cntValues
  waiting : c.waitingForRelease = true → c.counter = 0 ∧ c.currentPressLength = 0

/-- The display's cursor is legal and its glyph codes are named (R35 (b) and (g)). -/
structure DisplayInv (d : Display) : Prop where
  cursor : d.cursor.toNat ≤ 3
  glyphs : ∀ i : Slot, glyphNamed (d.digits.get i) = true

/-- The invariant is the units' invariants, the pins' and the configuration's. -/
theorem blockInv_iff (s : State) :
    BlockInv s ↔ s.params.admitted = true ∧ DebouncerInv s.params s.db ∧ CalibratorInv s.params s.cal ∧
      ClassifierInv s.params s.sw ∧ DisplayInv s.dp ∧ s.pins.oneHot = true ∧ s.link.idle = true := by
  constructor
  · rintro ⟨hconfig, hwidths, hselect, hcursor, hwaiting, hlink, hglyphs⟩
    obtain ⟨h1, h2, h3, h4, h5, h6, h7, h8⟩ := of_decide_eq_true hwidths
    exact ⟨hconfig, ⟨h1, h2⟩, ⟨h3, h4⟩, ⟨h5, h6, h7, h8, hwaiting⟩, ⟨hcursor, hglyphs⟩, hselect, hlink⟩
  · rintro ⟨hconfig, ⟨h1, h2⟩, ⟨h3, h4⟩, ⟨h5, h6, h7, h8, hwaiting⟩, ⟨hcursor, hglyphs⟩, hselect, hlink⟩
    exact ⟨hconfig, decide_eq_true ⟨h1, h2, h3, h4, h5, h6, h7, h8⟩, hselect, hcursor, hwaiting, hlink, hglyphs⟩

/-! ### The debouncer -/

theorem DebouncerInv.sample {p : Params} {d : Debouncer} (h : DebouncerInv p d) (raw : Bool) : DebouncerInv p (d.sample p raw) := by
  rcases d.sample_cases p raw with ⟨_, hd⟩ | ⟨_, _, hd⟩ | ⟨_, _, hd⟩ <;> rw [hd]
  · exact ⟨h.threshold, Nat.zero_le _⟩
  · exact ⟨h.threshold, Nat.zero_le _⟩
  · exact ⟨h.threshold, wrapInc_le _ _⟩

/-- The retune gives thresholds of `CNT_W` bits (rule R148). -/
theorem samplesFor_le (p : Params) (ms : Nat) (c : Calibrator) : (samplesFor p ms c).toNat ≤ p.cntMax :=
  msToCycles_le p ms c.cyclesPerSecond

theorem DebouncerInv.retuned {s : State} (h : DebouncerInv s.params s.db) : DebouncerInv s.params (retuned s).db := by
  rw [Claims.retuned]
  split
  · exact h
  · exact ⟨samplesFor_le _ _ _, h.counter⟩

theorem exec_keeps_debouncerInv {i : Instr} {s t : State} (hs : DebouncerInv s.params s.db) (h : exec i s = .next t) :
    DebouncerInv s.params t.db := by
  cases i with
  | dbSample => cases h; exact hs.sample _
  | dbGet => cases h; exact hs
  | dbSetSamples n => obtain ⟨hadm, rfl⟩ := eq_of_guarded h; exact ⟨(countAdmitted_iff _ _).1 hadm, hs.counter⟩
  | swSample =>
    obtain ⟨c, -, rfl⟩ := exec_swSample_eq_next h
    have hsample := hs.retuned.sample ((retuned s).env.btnAnswer 0)
    rw [sample_eq_sampledLevel, ← retuned_params s] at hsample
    rwa [← retuned_params s]
  | _ =>
    obtain ⟨hdb, -⟩ := unitsOwnTheirRegisters _ s t h
    rwa [hdb (by simp [Instr.unit]) (by simp)]

/-! ### The calibrator -/

theorem CalibratorInv.calibrate {p : Params} {c : Calibrator} (h : CalibratorInv p c) (seconds : Byte) :
    CalibratorInv p (c.calibrate p seconds) := by
  by_cases hsec : seconds = c.prevSeconds
  · rw [calibrate_of_eq hsec]
    exact ⟨h.estimate, wrapInc_le _ _⟩
  · rw [calibrate_of_ne hsec]
    exact ⟨wrapInc_le _ _, Nat.zero_le _⟩

theorem exec_keeps_calibratorInv {i : Instr} {s t : State} (hs : CalibratorInv s.params s.cal) (h : exec i s = .next t) :
    CalibratorInv s.params t.cal := by
  cases i with
  | calCalibrate _ _ seconds => cases h; exact hs.calibrate seconds
  | calReset => cases h; exact ⟨Nat.zero_le _, Nat.zero_le _⟩
  | calCalibrated | calCps => cases h; exact hs
  | calLit modulo => obtain ⟨-, r, rfl⟩ := exec_calLit_eq_next h; exact hs
  | _ =>
    obtain ⟨-, hcal, -⟩ := unitsOwnTheirRegisters _ s t h
    rwa [hcal (by simp [Instr.unit])]

/-! ### The classifier -/

/-- The length of a press of at most `CNT_MAX` samples fits `LEN_W` bits (rule R19). -/
theorem quotient_lt_of_le {p : Params} {n : Nat} (hn : n ≤ p.cntMax) (threshold : Nat) : n / threshold + 1 < 2 * p.cntValues := by
  have hdiv := Nat.div_le_self n threshold
  have hmax := Params.cntMax_add_one p
  omega

theorem ClassifierInv.classify {p : Params} {c c' : Classifier} (h : ClassifierInv p c) {d : Debouncer}
    (hclass : c.classify p d.pressed = .ok c') : ClassifierInv p c' := by
  cases hlevel : d.debouncedValue with
  | false =>
    rw [classify_of_level_zero hlevel] at hclass
    rcases c.countPress_cases p c' hclass with ⟨_, rfl⟩ | ⟨_, _, hcounter, hcurrent, hlast, hwait, hthreshold⟩
    · exact h
    · have hcount : c'.counter.toNat ≤ p.cntMax := by
        rw [hcounter, satInc_toNat]
        exact min_le_right _ _
      refine ⟨hthreshold ▸ h.threshold, hcount, ?_, hlast ▸ h.last, fun hw => absurd (hwait.symm.trans hw) Bool.false_ne_true⟩
      rw [hcurrent, ← hcounter]
      exact max_lt h.current (quotient_lt_of_le hcount _)
  | true =>
    rw [classify_of_level_one hlevel] at hclass
    obtain ⟨hcounter, hcurrent, hwait, hthreshold, hlast⟩ := c.release_cases c' hclass
    refine ⟨hthreshold ▸ h.threshold, ?_, ?_, ?_, fun _ => ⟨hcounter, hcurrent⟩⟩
    · rw [hcounter]
      exact Nat.zero_le _
    · rw [hcurrent]
      exact (Nat.zero_le _).trans_lt h.last
    · rcases hlast with ⟨_, hlast⟩ | ⟨_, _, hlast⟩
      · exact hlast ▸ h.last
      · exact hlast ▸ quotient_lt_of_le h.counter _

theorem ClassifierInv.retuned {s : State} (h : ClassifierInv s.params s.sw) : ClassifierInv s.params (retuned s).sw := by
  rw [Claims.retuned]
  split
  · exact h
  · exact ⟨samplesFor_le _ _ _, h.counter, h.current, h.last, h.waiting⟩

theorem exec_keeps_classifierInv {i : Instr} {s t : State} (hs : ClassifierInv s.params s.sw) (h : exec i s = .next t) :
    ClassifierInv s.params t.sw := by
  have hzero : (0 : Length).toNat < 2 * s.params.cntValues := (Nat.zero_le _).trans_lt hs.last
  cases i with
  | swSample =>
    obtain ⟨c, hclass, rfl⟩ := exec_swSample_eq_next h
    exact hs.retuned.classify hclass
  | swPushLength => obtain ⟨r, rfl⟩ := exec_swPushLength_eq_next h; exact hs
  | swReportCurrent => cases h; exact ⟨hs.threshold, hs.counter, hzero, hs.last, fun hw => ⟨(hs.waiting hw).1, rfl⟩⟩
  | swReportLast => cases h; exact ⟨hs.threshold, hs.counter, hs.current, hzero, hs.waiting⟩
  | swResetPressState => cases h; exact ⟨hs.threshold, Nat.zero_le _, hzero, hzero, fun _ => ⟨rfl, rfl⟩⟩
  | swSetThreshold n =>
    obtain ⟨hadm, rfl⟩ := eq_of_guarded h
    exact ⟨(countAdmitted_iff _ _).1 hadm, hs.counter, hs.current, hs.last, hs.waiting⟩
  | _ =>
    obtain ⟨-, -, hsw, -⟩ := unitsOwnTheirRegisters _ s t h
    rwa [hsw (by simp [Instr.unit])]

/-! ### The display and its pins -/

/-- An operation names a glyph code exactly as rule R73 does. -/
theorem glyphNamed_of_admitted {g : GlyphCode} (h : glyphAdmitted g = true) : glyphNamed g = true :=
  decide_eq_true ((glyphAdmitted_iff g).1 h)

theorem DisplayInv.setDigit {d : Display} (h : DisplayInv d) (i : Slot) {g : GlyphCode} (hg : glyphAdmitted g = true) :
    DisplayInv { d with digits := d.digits.set i g } := by
  refine ⟨h.cursor, fun j => ?_⟩
  by_cases hj : j = i
  · rw [hj, Slots.get_set_self]
    exact glyphNamed_of_admitted hg
  · rw [Slots.get_set_of_ne _ _ _ _ hj]
    exact h.glyphs j

theorem exec_keeps_displayInv {i : Instr} {s t : State} (hs : DisplayInv s.dp) (h : exec i s = .next t) : DisplayInv t.dp := by
  cases i with
  | dpUpdate => cases h; exact ⟨nextCursor_le _, hs.glyphs⟩
  | dpSetDigit i g => obtain ⟨hadm, rfl⟩ := eq_of_guarded h; exact hs.setDigit i hadm
  | dpSetDigits g0 g1 g2 g3 =>
    obtain ⟨hadm, rfl⟩ := eq_of_guarded h
    simp only [Bool.and_eq_true] at hadm
    obtain ⟨⟨⟨h0, h1⟩, h2⟩, h3⟩ := hadm
    refine ⟨hs.cursor, fun j => glyphNamed_of_admitted ?_⟩
    cases j with
    | s0 => exact h0
    | s1 => exact h1
    | s2 => exact h2
    | s3 => exact h3
  | dpSetDp _ _ | dpSetAllDps _ | dpSetDigitEnabled _ _ | dpSetAllDigitsEnabled _ | dpSetEnabled _ =>
    cases h; exact ⟨hs.cursor, hs.glyphs⟩
  | _ =>
    obtain ⟨-, -, -, hdp, -⟩ := unitsOwnTheirRegisters _ s t h
    rwa [(hdp (by simp [Instr.unit])).1]

theorem exec_keeps_oneHot {i : Instr} {s t : State} (hs : s.pins.oneHot = true) (h : exec i s = .next t) :
    t.pins.oneHot = true := by
  by_cases hi : i = .dpUpdate
  · subst hi
    cases h
    exact Display.drive_oneHot _ _ _ (nextCursor_le _)
  · rwa [onlyDpUpdateMovesDisplayPins i s t hi h]

/-! ### The link -/

theorem exec_keeps_idle {i : Instr} {s t : State} (hs : s.link.idle = true) (h : exec i s = .next t) : t.link.idle = true := by
  cases exec_effect h with
  | link => rfl
  | _ => exact hs

/-! ### Operations, reset, and the step -/

theorem exec_keeps_blockInv {i : Instr} {s t : State} (hs : BlockInv s) (h : exec i s = .next t) :
    BlockInv t ∧ t.params = s.params := by
  obtain ⟨-, -, -, -, -, hparams⟩ := unitsOwnTheirRegisters i s t h
  obtain ⟨hconfig, hdb, hcal, hsw, hdp, hpins, hlink⟩ := (blockInv_iff s).1 hs
  refine ⟨(blockInv_iff t).2 ?_, hparams⟩
  rw [hparams]
  exact ⟨hconfig, exec_keeps_debouncerInv hdb h, exec_keeps_calibratorInv hcal h, exec_keeps_classifierInv hsw h,
    exec_keeps_displayInv hdp h, exec_keeps_oneHot hpins h, exec_keeps_idle hlink h⟩

/-- A block of an admitted configuration has the invariant right after reset (rule R36). -/
theorem blockInv_resetOf {p : Params} (hp : p.admitted = true) : BlockInv (State.resetOf p) := by
  obtain ⟨hdb, hsw⟩ := of_decide_eq_true hp
  have hvalues := Params.two_le_cntValues p
  have hzero : (0 : Length).toNat < 2 * p.cntValues := (show 0 < 2 * p.cntValues by omega)
  refine (blockInv_iff _).2 ⟨hp, ⟨hdb, Nat.zero_le _⟩, ⟨Nat.zero_le _, Nat.zero_le _⟩,
    ⟨hsw, Nat.zero_le _, hzero, hzero, fun hw => absurd hw Bool.false_ne_true⟩, ⟨Nat.zero_le _, fun i => ?_⟩, rfl, rfl⟩
  cases i <;> rfl

/-- What the host has handed over and what the environment answers are no part of the invariant. -/
theorem blockInv_withInputs {s : State} (h : BlockInv s) (inputs : List Input) (env : Env) :
    BlockInv { s with inputs := inputs, env := env } :=
  (blockInv_iff _).2 ((blockInv_iff s).1 h)

/-! ### The obligations -/

/-- Settles O50: a step waits, resets, or runs one operation. -/
theorem stepKeepsTheStateInvariant : Obligations.StepKeepsTheStateInvariant := by
  intro s t hs hstep
  cases hinputs : s.inputs with
  | nil =>
    cases ((stepWaitsAndResets s).1 hinputs).symm.trans hstep
    exact ⟨hs, rfl⟩
  | cons input rest =>
    cases input with
    | rst =>
      cases ((stepWaitsAndResets s).2 rest hinputs).symm.trans hstep
      exact ⟨blockInv_withInputs (blockInv_resetOf hs.configAdmitted) rest s.env, rfl⟩
    | issue cw =>
      obtain ⟨i, -, hexec⟩ := step_issue_eq_next hinputs hstep
      obtain ⟨hkept, hparams⟩ := exec_keeps_blockInv (blockInv_withInputs hs rest s.env) hexec
      exact ⟨hkept, hparams⟩

/-- Settles O51: the configuration rule R6 takes is admitted. -/
theorem resetHasTheStateInvariant : Obligations.ResetHasTheStateInvariant :=
  blockInv_resetOf Params.taken_admitted

/-- Settles O49: the reset state is the table, slot by slot. -/
theorem resetLeavesTheTableValues : Obligations.ResetLeavesTheTableValues := by
  refine ⟨fun p => ⟨rfl, rfl, rfl, fun i => ?_, rfl, rfl, rfl, rfl, rfl⟩, rfl, rfl, rfl⟩
  cases i <;> exact ⟨rfl, rfl, rfl⟩

end Sys2Proof.Proofs
end

section
/-! PROOFS. How an operation ends: refused, at a fault or in a next state, told apart by its operands and its divisors; and the
obligations on rules R251 to R256. -/

namespace Sys2Proof.Proofs

open Sys2Proof.Machine Sys2Proof.Machine.Claims
open Config (Params)

/-! ### The two divisions -/

/-- `Divides s i f`: in state `s` operation `i` divides by a zero, which is fault `f` (rules R252 and R253). -/
inductive Divides (s : State) : Instr → Fault → Prop where
  | subPeriod (m : Byte) (h : s.cal.subPeriod m = 0) : Divides s (.calLit m) (.litDivideByZero m s.cal.cyclesPerSecond)
  | liveLength (hc : s.sw.counter.toNat ≠ 0) (ht : s.sw.thresholdSamples.toNat = 0) :
    Divides s .swPushLength (.pushLengthDivideByZero s.sw.counter)
  | press (u : State) (hu : u = sampledOnce (retuned s)) (hp : u.db.debouncedValue = false)
    (hw : u.sw.waitingForRelease = false) (ht : u.sw.thresholdSamples.toNat = 0) :
    Divides s .swSample (.pushLengthDivideByZero (countedOnce u.params u.sw))
  | release (u : State) (hu : u = sampledOnce (retuned s)) (hp : u.db.debouncedValue = true) (hc : u.sw.counter.toNat ≠ 0)
    (ht : u.sw.thresholdSamples.toNat = 0) : Divides s .swSample (.pushLengthDivideByZero u.sw.counter)

theorem lengthDefined_iff (c : Classifier) :
    c.lengthDefined = true ↔ c.counter.toNat = 0 ∨ c.thresholdSamples.toNat ≠ 0 := by
  simp only [Classifier.lengthDefined, Bool.or_eq_true, beq_iff_eq, bne_iff_ne, ne_eq, eq_zero_iff_toNat]

section Classifies

variable {c : Classifier} {d : Debouncer}

theorem classifies_iff_of_level_zero (h : d.debouncedValue = false) :
    c.classifies d.pressed = true ↔ c.waitingForRelease = true ∨ c.thresholdSamples.toNat ≠ 0 := by
  rw [Debouncer.pressed_eq, h]
  simp only [Classifier.classifies, Bool.not_false, if_true, Bool.or_eq_true, bne_iff_ne, ne_eq, eq_zero_iff_toNat]

theorem classifies_iff_of_level_one (h : d.debouncedValue = true) :
    c.classifies d.pressed = true ↔ c.counter.toNat = 0 ∨ c.thresholdSamples.toNat ≠ 0 := by
  rw [Debouncer.pressed_eq, h]
  exact lengthDefined_iff c

end Classifies

/-- What `completes` asks of `SW_SAMPLE`, on the state of the statements. -/
theorem completes_swSample (s : State) :
    completes .swSample s = (sampledOnce (retuned s)).sw.classifies (sampledOnce (retuned s)).db.pressed := by
  have hdb : s.retuneAndDebounce.db = (sampledOnce (retuned s)).db := by
    rw [State.retuneAndDebounce, retune_eq_retuned]
    exact sample_eq_sampledLevel _ _ _
  have hsw : s.retuneAndDebounce.sw = (sampledOnce (retuned s)).sw := by
    rw [State.retuneAndDebounce, retune_eq_retuned]
    rfl
  rw [← hdb, ← hsw]
  rfl

/-- An operation that divides by a zero admits its operands and does not complete. -/
theorem completes_of_divides {i : Instr} {s : State} {f : Fault} (h : Divides s i f) :
    wellFormed s.params i = true ∧ completes i s = false := by
  cases h with
  | subPeriod m h => exact ⟨rfl, decide_eq_false (Nat.not_lt.2 (Nat.le_of_eq h))⟩
  | liveLength hc ht =>
    refine ⟨rfl, Bool.eq_false_of_not_eq_true fun hdone => ?_⟩
    exact ((lengthDefined_iff _).1 hdone).elim hc fun hne => hne ht
  | press u hu hp hw ht =>
    refine ⟨rfl, Bool.eq_false_of_not_eq_true fun hdone => ?_⟩
    rw [completes_swSample, ← hu, classifies_iff_of_level_zero hp, hw] at hdone
    exact hdone.elim Bool.false_ne_true fun hne => hne ht
  | release u hu hp hc ht =>
    refine ⟨rfl, Bool.eq_false_of_not_eq_true fun hdone => ?_⟩
    rw [completes_swSample, ← hu, classifies_iff_of_level_one hp] at hdone
    exact hdone.elim hc fun hne => hne ht

/-! ### The three ends of an operation -/

/-- How operation `i` ends in state `s`. -/
inductive Ends (i : Instr) (s : State) : Prop where
  | refused (cw : Word) (r : Refusal) (hadm : wellFormed s.params i = false) (hword : encode i = .command cw)
    (hr : r = .operandOutOfRange cw ∨ r = .reservedGlyph cw) (h : exec i s = .refused r)
  | fault (f : Fault) (hdiv : Divides s i f) (h : exec i s = .fault f)
  | next (t : State) (hdone : completes i s = true) (h : exec i s = .next t)

/-- An operation whose one guard is rule R78's is refused with its own word, or completes. -/
theorem ends_of_guarded {i : Instr} {s t : State} {b : Bool} {cw : Word} {r : Refusal} (hguard : b = wellFormed s.params i)
    (hdone : completes i s = wellFormed s.params i) (hword : encode i = .command cw)
    (hr : r = .operandOutOfRange cw ∨ r = .reservedGlyph cw) (hexec : exec i s = if b then .next t else .refused r) :
    Ends i s := by
  cases b with
  | true => exact .next t (hdone.trans hguard.symm) hexec
  | false => exact .refused cw r hguard.symm hword hr hexec

theorem ends_swSample (s : State) : Ends .swSample s := by
  obtain ⟨-, hclauses⟩ := swSampleRetunesDebouncesClassifies
  obtain ⟨-, hwaiting, hpressFault, hpress, hidle, hreleaseFault, hrelease⟩ := hclauses s _ rfl
  have hdone := completes_swSample s
  cases hp : (sampledOnce (retuned s)).db.debouncedValue with
  | false =>
    rw [Bool.eq_iff_iff, classifies_iff_of_level_zero hp] at hdone
    cases hw : (sampledOnce (retuned s)).sw.waitingForRelease with
    | true => exact .next _ (hdone.2 (.inl hw)) (hwaiting hp hw)
    | false =>
      by_cases ht : (sampledOnce (retuned s)).sw.thresholdSamples.toNat = 0
      · exact .fault _ (.press _ rfl hp hw ht) (hpressFault hp hw ht)
      · exact .next _ (hdone.2 (.inr ht)) (hpress hp hw ht)
  | true =>
    rw [Bool.eq_iff_iff, classifies_iff_of_level_one hp] at hdone
    by_cases hc : (sampledOnce (retuned s)).sw.counter.toNat = 0
    · exact .next _ (hdone.2 (.inl hc)) (hidle hp hc)
    · by_cases ht : (sampledOnce (retuned s)).sw.thresholdSamples.toNat = 0
      · exact .fault _ (.release _ rfl hp hc ht) (hreleaseFault hp hc ht)
      · exact .next _ (hdone.2 (.inr ht)) (hrelease hp hc ht)

theorem ends_swPushLength (s : State) : Ends .swPushLength s := by
  obtain ⟨-, hclauses⟩ := swPushLengthIsLiveLength
  obtain ⟨hidle, hfault, hcounting⟩ := hclauses s
  have hdone : completes .swPushLength s = true ↔ s.sw.counter.toNat = 0 ∨ s.sw.thresholdSamples.toNat ≠ 0 :=
    lengthDefined_iff s.sw
  by_cases hc : s.sw.counter.toNat = 0
  · exact .next _ (hdone.2 (.inl hc)) (hidle hc)
  · by_cases ht : s.sw.thresholdSamples.toNat = 0
    · exact .fault _ (.liveLength hc ht) (hfault hc ht)
    · exact .next _ (hdone.2 (.inr ht)) (hcounting hc ht)

theorem ends_calLit (modulo : Byte) (s : State) : Ends (.calLit modulo) s := by
  by_cases hsub : s.cal.subPeriod modulo = 0
  · exact .fault _ (.subPeriod modulo hsub) (execCalLit_of_subPeriod_eq_zero hsub)
  · exact .next _ (decide_eq_true (Nat.pos_of_ne_zero hsub)) (execCalLit_of_subPeriod_ne_zero hsub)

/-- Every operation has one of the three ends. -/
theorem exec_ends (i : Instr) (s : State) : Ends i s := by
  cases i with
  | swSample => exact ends_swSample s
  | swPushLength => exact ends_swPushLength s
  | calLit modulo => exact ends_calLit modulo s
  | dbSetSamples n | swSetThreshold n => exact ends_of_guarded rfl (Bool.and_true _) rfl (.inl rfl) rfl
  | dpSetDigit i g =>
    refine ends_of_guarded (Bool.eq_iff_iff.2 ?_) (Bool.and_true _) rfl (.inr rfl) rfl
    exact (glyphAdmitted_iff g).trans decide_eq_true_iff.symm
  | dpSetDigits g0 g1 g2 g3 =>
    refine ends_of_guarded (Bool.eq_iff_iff.2 ?_) (Bool.and_true _) rfl (.inr rfl) rfl
    exact (glyphsAdmitted_iff g0 g1 g2 g3).trans decide_eq_true_iff.symm
  | rtcSetSeconds v | rtcSetMinutes v | rtcSetHours v => exact ends_of_guarded rfl (Bool.and_true _) rfl (.inl rfl) rfl
  | rtcSetTime h m sec =>
    refine ends_of_guarded (Bool.eq_iff_iff.2 ?_) (Bool.and_true _) rfl (.inl rfl) rfl
    exact (timeAdmitted_iff h m sec).trans decide_eq_true_iff.symm
  | _ => exact .next _ rfl rfl

/-! ### The obligations -/

/-- Settles O54: of the three ends, a refusal is the one of an operand that is not admitted. -/
theorem refusesExactlyUnadmittedOperands : Obligations.RefusesExactlyUnadmittedOperands := by
  intro i s
  cases exec_ends i s with
  | refused cw r hadm hword hr h =>
    refine ⟨fun _ => ⟨cw, hword, hr.imp (fun hr => ?_) fun hr => ?_⟩, fun hwf => ?_⟩
    · rw [h, hr]
    · rw [h, hr]
    · exact absurd (hadm.symm.trans hwf) Bool.false_ne_true
  | fault f hdiv h =>
    refine ⟨fun hadm => ?_, fun _ r hr => ?_⟩
    · exact absurd (hadm.symm.trans (completes_of_divides hdiv).1) Bool.false_ne_true
    · cases h.symm.trans hr
  | next t hdone h =>
    refine ⟨fun hadm => ?_, fun _ r hr => ?_⟩
    · exact absurd (hadm.symm.trans (Bool.and_eq_true_iff.1 hdone).1) Bool.false_ne_true
    · cases h.symm.trans hr

/-- Settles O55: of the three ends, a fault is the one of a division by zero. -/
theorem faultsOnlyOnDivisionByZero : Obligations.FaultsOnlyOnDivisionByZero := by
  intro i s f hf
  cases exec_ends i s with
  | refused cw r _ _ _ h => cases h.symm.trans hf
  | next t _ h => cases h.symm.trans hf
  | fault f' hdiv h =>
    cases h.symm.trans hf
    cases hdiv with
    | subPeriod m hsub => exact .inl ⟨m, rfl, rfl, .inr hsub⟩
    | liveLength hc ht => exact .inr (.inl ⟨rfl, rfl, hc, ht⟩)
    | press u hu hp hw ht =>
      exact .inr (.inr ⟨rfl, u, hu, ht, .inl ⟨hp, hw, countedOnce_toNat_ne_zero _ _, rfl⟩⟩)
    | release u hu hp hc ht => exact .inr (.inr ⟨rfl, u, hu, ht, .inr ⟨hp, hc, rfl⟩⟩)

/-- Settles O56: a next state is the end of an operation that is neither refused nor divides by zero. -/
theorem operationCompletesExactlyWhenDefined : Obligations.OperationCompletesExactlyWhenDefined := by
  intro i s
  cases exec_ends i s with
  | refused cw r hadm _ _ h =>
    refine ⟨fun ⟨t, ht⟩ => (by cases h.symm.trans ht), fun hdone => ?_⟩
    exact absurd (hadm.symm.trans (Bool.and_eq_true_iff.1 hdone).1) Bool.false_ne_true
  | fault f hdiv h =>
    refine ⟨fun ⟨t, ht⟩ => (by cases h.symm.trans ht), fun hdone => ?_⟩
    exact absurd ((completes_of_divides hdiv).2.symm.trans hdone) Bool.false_ne_true
  | next t hdone h => exact ⟨fun _ => hdone, fun _ => ⟨t, h⟩⟩

end Sys2Proof.Proofs
end

section
/-! PROOFS. Runs of operations, the debouncer, the calibrator and the display: what a run of samples makes of the debouncer, of
calls of the calibrator, of updates of the cursor, and the obligations on them. -/

namespace Sys2Proof.Proofs

open Sys2Proof.Machine Sys2Proof.Machine.Claims
open Config (Params)

/-- A run of one operation more, taken from the end. -/
theorem runOps_replicate_succ {i : Instr} {n : Nat} {s t u : State} (h : runOps (List.replicate n i) s = .next t)
    (hu : exec i t = .next u) : runOps (List.replicate (n + 1) i) s = .next u := by
  rw [List.replicate_succ', runOps_append_next _ _ _ _ h, runOps_cons_next _ _ _ _ hu, runOps_nil]

/-! ### The debouncer under a sequence of levels -/

/-- The debouncer's registers after `n` samples, the k-th of level `v k`. -/
def sampledRun (p : Params) (v : Nat → Bool) : Nat → Debouncer → Debouncer
  | 0, d => d
  | n + 1, d => (sampledRun p v n d).sample p (v n)

section SampledRun

variable {p : Params} {v : Nat → Bool} {d : Debouncer}

theorem sampledRun_add (m n : Nat) :
    sampledRun p v (m + n) d = sampledRun p (fun k => v (m + k)) n (sampledRun p v m d) := by
  induction n with
  | zero => rfl
  | succ n ih => rw [← Nat.add_assoc, sampledRun, sampledRun, ih]

@[simp] theorem sampledRun_debounceSamples (n : Nat) : (sampledRun p v n d).debounceSamples = d.debounceSamples := by
  induction n with
  | zero => rfl
  | succ n ih => rw [sampledRun, sample_debounceSamples, ih]

/-- Agreeing samples leave a debouncer with a cleared counter as it is. -/
theorem sampledRun_of_agree {n : Nat} (hc : d.counter = 0) (hv : ∀ k, k < n → v k = d.debouncedValue) :
    sampledRun p v n d = d := by
  induction n with
  | zero => rfl
  | succ n ih =>
    rw [sampledRun, ih fun k hk => hv k (hk.trans n.lt_succ_self), sample_of_eq (hv n n.lt_succ_self), ← hc]

/-- From a cleared counter, disagreeing samples up to the threshold are counted. -/
theorem sampledRun_of_disagree_of_le {n : Nat} (hc : d.counter = 0) (hmax : d.debounceSamples.toNat ≤ p.cntMax)
    (hn : n ≤ d.debounceSamples.toNat) (hv : ∀ k, k < n → v k = !d.debouncedValue) :
    sampledRun p v n d = { d with counter := BitVec.ofNat 24 n } := by
  have hvalues := Params.cntMax_add_one p
  have hwidth := Params.cntValues_le p
  induction n with
  | zero => rw [sampledRun, show BitVec.ofNat 24 0 = d.counter from hc.symm]
  | succ n ih =>
    have hcount : (BitVec.ofNat 24 n).toNat + 1 = n + 1 := by
      rw [BitVec.toNat_ofNat, Nat.mod_eq_of_lt (by omega)]
    have hmod : ((BitVec.ofNat 24 n).toNat + 1) % p.cntValues = n + 1 := by
      rw [hcount, Nat.mod_eq_of_lt (by omega)]
    rw [sampledRun, ih (by omega) fun k hk => hv k (hk.trans n.lt_succ_self), sample_of_ne_of_le]
    · simp only [wrapInc, hmod]
    · rw [hv n n.lt_succ_self]
      exact Bool.not_ne_self _
    · exact hmod.trans_le hn

/-- From a cleared counter, more disagreeing samples than the threshold, which is below `CNT_MAX`, change the value, once. -/
theorem sampledRun_of_disagree_of_lt {n : Nat} (hc : d.counter = 0) (hmax : d.debounceSamples.toNat < p.cntMax)
    (hn : d.debounceSamples.toNat < n) (hv : ∀ k, k < n → v k = !d.debouncedValue) :
    sampledRun p v n d = { d with counter := 0, debouncedValue := !d.debouncedValue } := by
  have hvalues := Params.cntMax_add_one p
  obtain ⟨r, rfl⟩ : ∃ r, n = d.debounceSamples.toNat + 1 + r := ⟨n - (d.debounceSamples.toNat + 1), by omega⟩
  have hcounted := sampledRun_of_disagree_of_le hc hmax.le le_rfl fun k hk => hv k (by omega)
  have haccepted : sampledRun p v (d.debounceSamples.toNat + 1) d =
      { d with counter := 0, debouncedValue := !d.debouncedValue } := by
    rw [sampledRun, hcounted, hv _ (by omega), BitVec.ofNat_toNat, BitVec.setWidth_eq, sample_of_ne_of_lt]
    · exact Bool.not_ne_self _
    · exact (Nat.lt_succ_self _).trans_eq (Nat.mod_eq_of_lt (by omega : d.debounceSamples.toNat + 1 < p.cntValues)).symm
  rw [sampledRun_add, haccepted]
  exact sampledRun_of_agree rfl fun k hk => hv _ (by omega)

/-- With the threshold at `CNT_MAX` no sample is accepted. -/
theorem sampledRun_debouncedValue_of_max (hmax : d.debounceSamples.toNat = p.cntMax) (n : Nat) :
    (sampledRun p v n d).debouncedValue = d.debouncedValue := by
  induction n with
  | zero => rfl
  | succ n ih =>
    have hle := wrapInc_le p (sampledRun p v n d).counter
    rw [← hmax, ← sampledRun_debounceSamples (p := p) (v := v) n] at hle
    rw [sampledRun, ← ih]
    rcases Debouncer.sample_cases p (sampledRun p v n d) (v n) with ⟨_, h⟩ | ⟨_, hlt, _⟩ | ⟨_, _, h⟩
    · rw [h]
    · exact absurd hlt (Nat.not_lt.2 hle)
    · rw [h]

end SampledRun

/-- A sample leaves the counter within the threshold: it counts no further than that (rule R12). -/
theorem sample_counter_le (p : Params) (d : Debouncer) (raw : Bool) :
    (d.sample p raw).counter.toNat ≤ (d.sample p raw).debounceSamples.toNat := by
  rcases d.sample_cases p raw with ⟨_, h⟩ | ⟨_, _, h⟩ | ⟨_, hle, h⟩ <;> rw [h]
  · exact Nat.zero_le _
  · exact Nat.zero_le _
  · exact hle

/-- A run of `DB_SAMPLE` samples the debouncer at the environment's next answers. -/
theorem runOps_dbSample (s : State) (n : Nat) :
    ∃ t, runOps (List.replicate n .dbSample) s = .next t ∧ t.db = sampledRun s.params s.env.btnAnswer n s.db ∧
      t.params = s.params ∧ t.env = { s.env with btnDraws := s.env.btnDraws + n } := by
  induction n with
  | zero => exact ⟨s, rfl, rfl, rfl, rfl⟩
  | succ n ih =>
    obtain ⟨t, hrun, hdb, hparams, henv⟩ := ih
    refine ⟨_, runOps_replicate_succ hrun (exec_dbSample t), ?_, hparams, ?_⟩
    · show t.db.sample t.params (t.env.btnAnswer 0) = _
      rw [hdb, hparams, henv, Env.btnAnswer_advance]
      rfl
    · show ({ t.env with btnDraws := t.env.btnDraws + 1 } : Env) = _
      rw [henv, Nat.add_assoc]

/-! ### The obligations on the debouncer -/

/-- Settles O4: up to the threshold the run counts, past it the value has changed and the rest of the run agrees with it. -/
theorem debouncerChangesExactlyOnceAfterThreshold : Obligations.DebouncerChangesExactlyOnceAfterThreshold := by
  intro s m hc hmax hv
  obtain ⟨t, hrun, hdb, -, -⟩ := runOps_dbSample s m
  refine ⟨t, hrun, ?_, fun hm => ?_, fun hm => ?_⟩
  · rw [hdb, sampledRun_debounceSamples]
  · rw [hdb, sampledRun_of_disagree_of_le hc hmax.le hm hv]
    refine ⟨rfl, Nat.mod_eq_of_lt ?_⟩
    have hlt := s.db.debounceSamples.isLt
    omega
  · rw [hdb, sampledRun_of_disagree_of_lt hc hmax hm hv]
    exact ⟨rfl, rfl⟩

/-- Settles O5: the disagreeing samples are counted, and the agreeing one clears the count. -/
theorem debouncerIgnoresShortGlitch : Obligations.DebouncerIgnoresShortGlitch := by
  intro s m hc hmax hm hv hagree
  obtain ⟨t, hrun, hdb, -, -⟩ := runOps_dbSample s (m + 1)
  have hclear : ({ s.db with counter := 0 } : Debouncer) = s.db := by rw [← hc]
  refine ⟨t, hrun, ?_⟩
  rw [hdb, sampledRun, sampledRun_of_disagree_of_le hc hmax.le hm hv]
  exact (sample_of_eq (d := { s.db with counter := BitVec.ofNat 24 m }) hagree).trans hclear

/-- Settles O6: no count exceeds the threshold `CNT_MAX`. -/
theorem debouncerNeverChangesAtMaxThreshold : Obligations.DebouncerNeverChangesAtMaxThreshold := by
  intro s m hmax
  obtain ⟨t, hrun, hdb, -, -⟩ := runOps_dbSample s m
  exact ⟨t, hrun, by rw [hdb, sampledRun_debouncedValue_of_max hmax]⟩

/-- Settles O7: both sampling operations end in the debouncer step. -/
theorem samplingLeavesCounterWithinThreshold : Obligations.SamplingLeavesCounterWithinThreshold := by
  rintro i s t (rfl | rfl) h
  · cases h
    exact sample_counter_le _ _ _
  · obtain ⟨c, -, rfl⟩ := exec_swSample_eq_next h
    show (sampledLevel _ _ _).counter.toNat ≤ (sampledLevel _ _ _).debounceSamples.toNat
    rw [← sample_eq_sampledLevel]
    exact sample_counter_le _ _ _

/-! ### The calibrator -/

/-- Calls within the second seen last add up, mod `2^CNT_W`, and leave estimate and second. -/
theorem runOps_calCalibrate (s : State) (calls : List (Byte × Byte)) :
    ∃ u, runOps (calls.map fun p => .calCalibrate p.1 p.2 s.cal.prevSeconds) s = .next u ∧
      u.cal.cyclesPerSecond = s.cal.cyclesPerSecond ∧ u.cal.prevSeconds = s.cal.prevSeconds ∧ u.params = s.params ∧
      (u.cal.cycles.toNat + 1) % s.params.cntValues = (s.cal.cycles.toNat + calls.length + 1) % s.params.cntValues := by
  induction calls generalizing s with
  | nil => exact ⟨s, rfl, rfl, rfl, rfl, rfl⟩
  | cons call calls ih =>
    have hexec := exec_calCalibrate call.1 call.2 s.cal.prevSeconds s
    rw [calibrate_of_eq rfl] at hexec
    obtain ⟨u, hrun, hcps, hprev, hparams, hcycles⟩ :=
      ih { s with cal := { s.cal with cycles := wrapInc s.params s.cal.cycles }, res := 0, trace := [] }
    refine ⟨u, (runOps_cons_next _ _ _ _ hexec).trans hrun, hcps, hprev, hparams, hcycles.trans ?_⟩
    show ((wrapInc s.params s.cal.cycles).toNat + calls.length + 1) % _ = (s.cal.cycles.toNat + (calls.length + 1) + 1) % _
    rw [wrapInc_toNat, Nat.add_assoc, Nat.mod_add_mod]
    congr 1
    omega

/-- Settles O13: the calls within the second are counted, and the next call counts itself into the snapshot. -/
theorem calibratorMeasuresCallsPerSecond : Obligations.CalibratorMeasuresCallsPerSecond := by
  intro s calls h m sec hsec
  obtain ⟨u, hrun, hcps, hprev, hparams, hcycles⟩ := runOps_calCalibrate s calls
  have hexec := exec_calCalibrate h m sec u
  rw [calibrate_of_ne (hprev ▸ hsec)] at hexec
  refine ⟨u, _, hrun, hcps, hprev, hexec, ?_, rfl, rfl⟩
  show (wrapInc u.params u.cal.cycles).toNat = _
  rw [wrapInc_toNat, hparams, hcycles]
  rfl

/-- Settles O12: at most 1000 ms of the estimate is at most the estimate, which the counter holds. -/
theorem millisecondConversionTruncates : Obligations.MillisecondConversionTruncates := by
  intro p ms cps
  refine ⟨msToCycles_toNat p ms cps, fun hms hcps => ?_⟩
  have hle : ms * cps.toNat / 1000 ≤ cps.toNat :=
    Nat.div_le_of_le_mul (Nat.mul_le_mul_right _ hms)
  have hmax := Params.cntMax_add_one p
  rw [msToCycles_toNat, Nat.mod_eq_of_lt (by omega)]
  exact ⟨rfl, hle⟩

/-! ### The display -/

/-- From a legal cursor the next one is the successor mod 4 (rule R171). -/
theorem nextCursor_toNat_of_le {c : BitVec 3} (h : c.toNat ≤ 3) : (nextCursor c).toNat = (c.toNat + 1) % 4 := by
  rw [nextCursor_toNat]
  split <;> omega

/-- One update from a legal cursor, the display enabled: the cursor moves on, and the line of its number alone is asserted. -/
theorem exec_dpUpdate_of_enabled {s : State} (hcursor : s.dp.cursor.toNat ≤ 3) (henabled : s.dp.enabled = true) :
    ∃ t, exec .dpUpdate s = .next t ∧ t.dp.cursor.toNat = (s.dp.cursor.toNat + 1) % 4 ∧
      t.pins.digSel = BitVec.ofNat 4 (2 ^ ((s.dp.cursor.toNat + 1) % 4)) ∧ t.dp = { s.dp with cursor := t.dp.cursor } := by
  refine ⟨_, exec_dpUpdate s, nextCursor_toNat_of_le hcursor, ?_, rfl⟩
  rw [drive_eq, ← nextCursor_toNat_of_le hcursor]
  exact if_pos henabled

/-- Settles O29: each update moves the cursor on by one mod 4 and leaves it legal for the next. -/
theorem updatesVisitSlotsRoundRobin : Obligations.UpdatesVisitSlotsRoundRobin := by
  intro s n hcursor henabled
  induction n with
  | zero =>
    obtain ⟨t, hexec, hnext⟩ := exec_dpUpdate_of_enabled hcursor henabled
    exact ⟨t, runOps_cons_next _ _ _ _ hexec, hnext⟩
  | succ n ih =>
    obtain ⟨t, hrun, htcursor, -, hdp⟩ := ih
    have hlegal : t.dp.cursor.toNat ≤ 3 := by omega
    have hon : t.dp.enabled = true := by rw [hdp, henabled]
    obtain ⟨u, hexec, hucursor, hselect, hudp⟩ := exec_dpUpdate_of_enabled hlegal hon
    have hmod : (t.dp.cursor.toNat + 1) % 4 = (s.dp.cursor.toNat + (n + 1) + 1) % 4 := by omega
    rw [hmod] at hucursor hselect
    refine ⟨u, runOps_replicate_succ hrun hexec, hucursor, hselect, ?_⟩
    rw [hudp, hdp]

/-- Settles O52: the slot of the statement is the one the update drives, since both have the cursor's number. -/
theorem blankedSlotShowsNothing : Obligations.BlankedSlotShowsNothing := by
  intro s i hblank hslot
  have hi : i = slotOfCursor (nextCursor s.dp.cursor) := by
    have hbits : slotBits i = slotBits (slotOfCursor (nextCursor s.dp.cursor)) := by
      apply BitVec.eq_of_toNat_eq
      rw [hslot, slotBits_slotOfCursor (nextCursor_le _), nextCursor_toNat]
    rw [← slotOfBits_slotBits i, hbits, slotOfBits_slotBits]
  subst hi
  refine ⟨_, exec_dpUpdate s, ?_⟩
  rw [drive_eq]
  simp [hblank]

end Sys2Proof.Proofs
end

section
/-! PROOFS. Runs of `SW_SAMPLE`: the debounced levels under the classifier, what a held, a released and a consumed press make of
the classifier, and the obligations on presses. -/

namespace Sys2Proof.Proofs

open Sys2Proof.Machine Sys2Proof.Machine.Claims
open Config (Params)

/-! ### The levels a run debounces -/

@[simp] theorem sampledLevel_debounceSamples (p : Params) (d : Debouncer) (raw : Bool) :
    (sampledLevel p d raw).debounceSamples = d.debounceSamples := by
  rw [← sample_eq_sampledLevel, sample_debounceSamples]

/-- Writing the thresholds a state has leaves it as it is. -/
theorem withThresholds_eq_self {s : State} {n m : Count} (hn : s.db.debounceSamples = n) (hm : s.sw.thresholdSamples = m) :
    { s with db := { s.db with debounceSamples := n }, sw := { s.sw with thresholdSamples := m } } = s := by
  rw [← hn, ← hm]

/-- A second retune finds its own thresholds: no sample changes them, nor the estimate (rule R148). -/
theorem retuned_sampledOnce_retuned (s : State) : retuned (sampledOnce (retuned s)) = sampledOnce (retuned s) := by
  by_cases h : s.cal.cyclesPerSecond.toNat = 0
  · rw [show retuned s = s from if_pos h]
    exact if_pos h
  · rw [show retuned s = _ from if_neg h]
    exact (if_neg h).trans (withThresholds_eq_self (sampledLevel_debounceSamples _ _ _) rfl)

/-- After at least one sample the retune has nothing left to do. -/
theorem retuned_debouncedRun_succ (n : Nat) (s : State) : retuned (debouncedRun (n + 1) s) = debouncedRun (n + 1) s :=
  retuned_sampledOnce_retuned _

/-- The run so far, retuned: the debouncer has taken the environment's first `n` answers under the retuned threshold. -/
theorem retuned_debouncedRun (n : Nat) (s : State) :
    (retuned (debouncedRun n s)).db = sampledRun s.params s.env.btnAnswer n (retuned s).db ∧
      (retuned (debouncedRun n s)).sw = (retuned s).sw ∧ (retuned (debouncedRun n s)).params = s.params ∧
      (retuned (debouncedRun n s)).env = { s.env with btnDraws := s.env.btnDraws + n } := by
  induction n with
  | zero =>
    have henv : (retuned s).env = s.env := by rw [← retune_eq_retuned, State.retune_env]
    exact ⟨rfl, rfl, retuned_params s, henv⟩
  | succ n ih =>
    obtain ⟨hdb, hsw, hparams, henv⟩ := ih
    rw [retuned_debouncedRun_succ, debouncedRun]
    refine ⟨?_, hsw, hparams, ?_⟩
    · show sampledLevel _ _ (Env.btnAnswer _ 0) = _
      rw [← sample_eq_sampledLevel, hdb, hparams, henv, Env.btnAnswer_advance]
      rfl
    · show ({ (retuned (debouncedRun n s)).env with btnDraws := _ + 1 } : Env) = _
      rw [henv, Nat.add_assoc]

theorem debouncedRun_succ_db (n : Nat) (s : State) :
    (debouncedRun (n + 1) s).db = sampledRun s.params s.env.btnAnswer (n + 1) (retuned s).db := by
  rw [← retuned_debouncedRun_succ]
  obtain ⟨hdb, -⟩ := retuned_debouncedRun (n + 1) s
  exact hdb

theorem debouncedRun_add (m n : Nat) (s : State) : debouncedRun (m + n) s = debouncedRun n (debouncedRun m s) := by
  induction n with
  | zero => rfl
  | succ n ih => rw [← Nat.add_assoc, debouncedRun, debouncedRun, ih]

/-! ### The block beside the levels it debounces -/

/-- `Follows d t`: `t` agrees with `d` on all that retune and debouncer read or write, so `t` debounces what `d` does. -/
structure Follows (d t : State) : Prop where
  db : t.db = d.db
  cal : t.cal = d.cal
  env : t.env = d.env
  params : t.params = d.params
  threshold : t.sw.thresholdSamples = d.sw.thresholdSamples

theorem Follows.refl (s : State) : Follows s s := ⟨rfl, rfl, rfl, rfl, rfl⟩

/-- What follows, retuned: the press registers are its own, the rest is `d`'s. -/
theorem Follows.retuned {d t : State} (h : Follows d t) :
    Follows (retuned d) (retuned t) ∧ (retuned t).sw = { t.sw with thresholdSamples := (retuned d).sw.thresholdSamples } := by
  obtain ⟨hdb, hcal, henv, hparams, hthreshold⟩ := h
  rw [Claims.retuned, Claims.retuned, hcal]
  split
  · exact ⟨⟨hdb, hcal, henv, hparams, hthreshold⟩, by rw [← hthreshold]⟩
  · refine ⟨⟨?_, rfl, henv, hparams, ?_⟩, ?_⟩ <;> simp only [hdb, hparams]

/-- One sample later it still follows, with the press registers it had. -/
theorem Follows.sampled {d t : State} (h : Follows d t) :
    Follows (sampledOnce (Claims.retuned d)) (sampledOnce (Claims.retuned t)) ∧
      (sampledOnce (Claims.retuned t)).sw = { t.sw with thresholdSamples := (Claims.retuned d).sw.thresholdSamples } := by
  obtain ⟨⟨hdb, hcal, henv, hparams, hthreshold⟩, hsw⟩ := h.retuned
  refine ⟨⟨?_, hcal, ?_, hparams, hthreshold⟩, hsw⟩ <;> simp only [sampledOnce, hdb, henv, hparams]

/-- Press registers with the threshold in force follow as well. -/
theorem Follows.withSw {d t : State} (h : Follows d t) {c : Classifier} (hc : c.thresholdSamples = t.sw.thresholdSamples) :
    Follows d { t with sw := c } :=
  ⟨h.db, h.cal, h.env, h.params, hc.trans h.threshold⟩

/-! ### One sample of a block that follows -/

section OneSample

variable {d t : State}

/-- A pressed sample while waiting for release changes no press register. -/
theorem exec_swSample_waiting (h : Follows d t) (hlevel : (sampledOnce (retuned d)).db.debouncedValue = false)
    (hw : t.sw.waitingForRelease = true) :
    ∃ u, exec .swSample t = .next u ∧ Follows (sampledOnce (retuned d)) u ∧
      u.sw = { t.sw with thresholdSamples := (retuned d).sw.thresholdSamples } := by
  obtain ⟨hfollows, hsw⟩ := h.sampled
  obtain ⟨-, hwaiting, -⟩ := swSampleRetunesDebouncesClassifies.2 t _ rfl
  exact ⟨_, hwaiting (hfollows.db ▸ hlevel) (by rw [hsw, hw]), hfollows, hsw⟩

/-- A pressed sample against a threshold is counted. -/
theorem exec_swSample_press (h : Follows d t) (hlevel : (sampledOnce (retuned d)).db.debouncedValue = false)
    (hw : t.sw.waitingForRelease = false) (hthreshold : (retuned d).sw.thresholdSamples.toNat ≠ 0) :
    ∃ u, exec .swSample t = .next u ∧ Follows (sampledOnce (retuned d)) u ∧
      u.sw.counter.toNat = min (t.sw.counter.toNat + 1) d.params.cntMax ∧ u.sw.waitingForRelease = false := by
  obtain ⟨hfollows, hsw⟩ := h.sampled
  obtain ⟨-, -, -, hpress, -⟩ := swSampleRetunesDebouncesClassifies.2 t _ rfl
  refine ⟨_, hpress (hfollows.db ▸ hlevel) (by rw [hsw, hw]) (by rwa [hsw]), hfollows.withSw rfl, ?_,
    by rw [countedPress, hsw, hw]⟩
  refine (satInc_toNat _ _).trans ?_
  rw [sampledOnce_retuned_params, hsw, h.params]

/-- An unpressed sample with nothing counted leaves the classifier idle. -/
theorem exec_swSample_idle (h : Follows d t) (hlevel : (sampledOnce (retuned d)).db.debouncedValue = true)
    (hc : t.sw.counter = 0) :
    ∃ u, exec .swSample t = .next u ∧ Follows (sampledOnce (retuned d)) u ∧
      u.sw = { t.sw with
        thresholdSamples := (retuned d).sw.thresholdSamples, currentPressLength := 0, waitingForRelease := false } := by
  obtain ⟨hfollows, hsw⟩ := h.sampled
  obtain ⟨-, -, -, -, hidle, -⟩ := swSampleRetunesDebouncesClassifies.2 t _ rfl
  refine ⟨_, hidle (hfollows.db ▸ hlevel) (by rw [hsw, hc]; rfl), hfollows.withSw rfl, ?_⟩
  rw [hsw]

/-- The unpressed sample that ends a counted press latches its length. -/
theorem exec_swSample_release (h : Follows d t) (hlevel : (sampledOnce (retuned d)).db.debouncedValue = true)
    (hc : t.sw.counter.toNat ≠ 0) (hthreshold : (retuned d).sw.thresholdSamples.toNat ≠ 0) :
    ∃ u, exec .swSample t = .next u ∧ Follows (sampledOnce (retuned d)) u ∧
      u.sw = idleAfter (retuned d).sw.thresholdSamples
        (t.sw.counter.toNat / (retuned d).sw.thresholdSamples.toNat + 1) := by
  obtain ⟨hfollows, hsw⟩ := h.sampled
  obtain ⟨-, -, -, -, -, -, hrelease⟩ := swSampleRetunesDebouncesClassifies.2 t _ rfl
  refine ⟨_, hrelease (hfollows.db ▸ hlevel) (by rwa [hsw]) (by rwa [hsw]), hfollows.withSw rfl, ?_⟩
  rw [hsw]
  rfl

end OneSample

/-! ### Runs of a block that follows -/

section Runs

variable {d t : State}

/-- A held press counts its samples, saturating. -/
theorem runOps_swSample_press (h : Follows d t) (hc : t.sw.counter = 0) (hw : t.sw.waitingForRelease = false)
    (hthreshold : (retuned d).sw.thresholdSamples.toNat ≠ 0) (n : Nat)
    (hlevel : ∀ k, k < n → (debouncedRun (k + 1) d).db.debouncedValue = false) :
    ∃ u, runOps (List.replicate n .swSample) t = .next u ∧ Follows (debouncedRun n d) u ∧
      u.sw.counter.toNat = min n d.params.cntMax ∧ u.sw.waitingForRelease = false := by
  induction n with
  | zero => exact ⟨t, rfl, h, by rw [hc, Nat.zero_min]; rfl, hw⟩
  | succ n ih =>
    obtain ⟨u, hrun, hu, hcounter, hwait⟩ := ih fun k hk => hlevel k (hk.trans n.lt_succ_self)
    obtain ⟨-, hsw, hparams, -⟩ := retuned_debouncedRun n d
    obtain ⟨u', hexec, hu', hcounter', hwait'⟩ := exec_swSample_press hu (hlevel n n.lt_succ_self) hwait (by rwa [hsw])
    refine ⟨u', runOps_replicate_succ hrun hexec, hu', ?_, hwait'⟩
    rw [hcounter', hcounter, ← retuned_params (debouncedRun n d), hparams]
    omega

/-- Unpressed samples with nothing counted leave nothing counted. -/
theorem runOps_swSample_idle (h : Follows d t) (hc : t.sw.counter = 0) (hw : t.sw.waitingForRelease = false) (n : Nat)
    (hlevel : ∀ k, k < n → (debouncedRun (k + 1) d).db.debouncedValue = true) :
    ∃ u, runOps (List.replicate n .swSample) t = .next u ∧ Follows (debouncedRun n d) u ∧ u.sw.counter = 0 ∧
      u.sw.waitingForRelease = false := by
  induction n with
  | zero => exact ⟨t, rfl, h, hc, hw⟩
  | succ n ih =>
    obtain ⟨u, hrun, hu, hcounter, -⟩ := ih fun k hk => hlevel k (hk.trans n.lt_succ_self)
    obtain ⟨u', hexec, hu', hsw⟩ := exec_swSample_idle hu (hlevel n n.lt_succ_self) hcounter
    exact ⟨u', runOps_replicate_succ hrun hexec, hu', by rw [hsw, hcounter], by rw [hsw]⟩

/-- A held press and its release leave the press's length in the last latch and the classifier idle. -/
theorem runOps_swSample_press_release (h : Follows d t) (hc : t.sw.counter = 0) (hw : t.sw.waitingForRelease = false)
    (hthreshold : (retuned d).sw.thresholdSamples.toNat ≠ 0) {n : Nat} (hn : 1 ≤ n)
    (hlevel : ∀ k, k < n → (debouncedRun (k + 1) d).db.debouncedValue = false)
    (hreleased : (debouncedRun (n + 1) d).db.debouncedValue = true) :
    ∃ u, runOps (List.replicate (n + 1) .swSample) t = .next u ∧ u.db = (debouncedRun (n + 1) d).db ∧
      u.sw = idleAfter (retuned d).sw.thresholdSamples (min n d.params.cntMax / (retuned d).sw.thresholdSamples.toNat + 1) := by
  obtain ⟨u, hrun, hu, hcounter, -⟩ := runOps_swSample_press h hc hw hthreshold n hlevel
  obtain ⟨-, hsw, -, -⟩ := retuned_debouncedRun n d
  have hcounted : u.sw.counter.toNat ≠ 0 := by
    have hvalues := Params.two_le_cntValues d.params
    have hmax := Params.cntMax_add_one d.params
    omega
  obtain ⟨u', hexec, hu', hsw'⟩ := exec_swSample_release hu hreleased hcounted (by rwa [hsw])
  refine ⟨u', runOps_replicate_succ hrun hexec, hu'.db, ?_⟩
  rw [hsw', hsw, hcounter]

/-- The rest of a consumed hold leaves the press registers cleared and waiting. -/
theorem runOps_swSample_waiting (h : Follows d t)
    (hsw : t.sw = { idleAfter d.sw.thresholdSamples 0 with waitingForRelease := true }) (n : Nat)
    (hlevel : ∀ k, k < n → (debouncedRun (k + 1) d).db.debouncedValue = false) :
    ∃ u, runOps (List.replicate n .swSample) t = .next u ∧ Follows (debouncedRun n d) u ∧
      u.sw = { idleAfter (debouncedRun n d).sw.thresholdSamples 0 with waitingForRelease := true } := by
  induction n with
  | zero => exact ⟨t, rfl, h, hsw⟩
  | succ n ih =>
    obtain ⟨u, hrun, hu, husw⟩ := ih fun k hk => hlevel k (hk.trans n.lt_succ_self)
    obtain ⟨u', hexec, hu', hsw'⟩ := exec_swSample_waiting hu (hlevel n n.lt_succ_self) (by rw [husw])
    refine ⟨u', runOps_replicate_succ hrun hexec, hu', ?_⟩
    rw [hsw', husw]
    rfl

end Runs

/-! ### A raw press through the debouncer -/

/-- The debouncer once it has accepted the other level (rule R101). -/
def otherLevel (d : Debouncer) : Debouncer := { d with counter := 0, debouncedValue := !d.debouncedValue }

section RawPress

variable {p : Params} {d : Debouncer} {v : Nat → Bool} {h n : Nat}

/-- The debounced level of a raw press of `h` samples, more than the threshold `n`: it is a press from sample `n + 1` to sample
`h + n`, and the line released for `n + 1` samples ends it. -/
theorem sampledRun_rawPress (hn : n = d.debounceSamples.toNat) (hmax : n < p.cntMax) (hh : n < h) (hc : d.counter = 0)
    (hvalue : d.debouncedValue = true) (hdown : ∀ k, k < h → v k = false) (hup : ∀ k, h ≤ k → k < h + n + 1 → v k = true) :
    (∀ k, k ≤ n → (sampledRun p v k d).debouncedValue = true) ∧
      (∀ k, n < k → k ≤ h + n → (sampledRun p v k d).debouncedValue = false) ∧ sampledRun p v (h + n + 1) d = d := by
  subst hn
  have hlow : (otherLevel d).debouncedValue = false := by rw [otherLevel, hvalue]; rfl
  have hdisagree : ∀ k, k < h → v k = !d.debouncedValue := fun k hk => by rw [hdown k hk, hvalue]; rfl
  have hpressed : ∀ k, d.debounceSamples.toNat < k → k ≤ h → sampledRun p v k d = otherLevel d := fun k hk hkh =>
    sampledRun_of_disagree_of_lt hc hmax hk fun j hj => hdisagree j (by omega)
  have hreleasing : ∀ k, k < d.debounceSamples.toNat + 1 → v (h + k) = !(otherLevel d).debouncedValue := fun k hk => by
    rw [hup _ (by omega) (by omega), hlow]
    rfl
  have hcounting : ∀ j, j ≤ d.debounceSamples.toNat →
      sampledRun p (fun k => v (h + k)) j (otherLevel d) = { otherLevel d with counter := BitVec.ofNat 24 j } := fun j hj =>
    sampledRun_of_disagree_of_le rfl hmax.le hj fun k hk => hreleasing k (by omega)
  have hback : sampledRun p (fun k => v (h + k)) (d.debounceSamples.toNat + 1) (otherLevel d) = otherLevel (otherLevel d) :=
    sampledRun_of_disagree_of_lt rfl hmax (Nat.lt_succ_self _) hreleasing
  refine ⟨fun k hk => ?notYet, fun k hk hkh => ?press, ?released⟩
  case notYet => rwa [sampledRun_of_disagree_of_le hc hmax.le hk fun j hj => hdisagree j (by omega)]
  case press =>
    rcases le_or_gt k h with hle | hgt
    · rw [hpressed k hk hle, hlow]
    · obtain ⟨j, rfl⟩ : ∃ j, k = h + j := ⟨k - h, by omega⟩
      rwa [sampledRun_add, hpressed h hh le_rfl, hcounting j (by omega)]
  case released =>
    rw [Nat.add_assoc, sampledRun_add, hpressed h hh le_rfl, hback]
    simp only [otherLevel, Bool.not_not, ← hc]

end RawPress

/-- The retune leaves the debouncer's counter and value (rule R148). -/
theorem retuned_db (s : State) : (retuned s).db.counter = s.db.counter ∧ (retuned s).db.debouncedValue = s.db.debouncedValue := by
  rw [retuned]
  split <;> exact ⟨rfl, rfl⟩

/-! ### The obligations -/

/-- Settles O20: a debounced press is counted and its length latched at the release; and a raw press is unpressed up to the
threshold, then a debounced press of as many samples, then released. -/
theorem pressIsQuantizedInDurationUnits : Obligations.PressIsQuantizedInDurationUnits := by
  intro s h hc hw hthreshold
  refine ⟨fun hh hlevel hreleased => ?debounced, fun n hn hmax hnh hdb hvalue hdown hup => ?raw⟩
  case debounced => exact runOps_swSample_press_release (.refl s) hc hw hthreshold hh hlevel hreleased
  case raw =>
    obtain ⟨hcounter, hlevel⟩ := retuned_db s
    obtain ⟨hbefore, hpress, hafter⟩ := sampledRun_rawPress hn hmax hnh (hcounter.trans hdb) (hlevel.trans hvalue) hdown hup
    obtain ⟨u, hidle, hu, huc, huw⟩ := runOps_swSample_idle (.refl s) hc hw n fun k hk => by
      rw [debouncedRun_succ_db, hbefore _ hk]
    obtain ⟨-, hsw, hparams, -⟩ := retuned_debouncedRun n s
    have hend : (debouncedRun (h + 1) (debouncedRun n s)).db = (retuned s).db := by
      rw [← debouncedRun_add, ← Nat.add_assoc, debouncedRun_succ_db, Nat.add_comm n h, hafter]
    obtain ⟨t, hrun, htdb, htsw⟩ := runOps_swSample_press_release hu huc huw (by rwa [hsw]) (n := h) (by omega)
      (fun k hk => by rw [← debouncedRun_add, ← Nat.add_assoc, debouncedRun_succ_db, hpress _ (by omega) (by omega)])
      (by rw [hend, hlevel, hvalue])
    refine ⟨t, ?_, htdb.trans hend, ?_⟩
    · rw [show h + n + 1 = n + (h + 1) by omega, List.replicate_add, runOps_append_next _ _ _ _ hidle, hrun]
    · rw [htsw, hsw, ← retuned_params (debouncedRun n s), hparams]

/-- Settles O21: what `SW_RESET_PRESS_STATE` leaves is what the waiting samples keep, and the release ends the waiting. -/
theorem consumedHoldIsNotReportedAgain : Obligations.ConsumedHoldIsNotReportedAgain := by
  intro s m hlevel hreleased
  have hreset : Follows s { s with
      sw := { s.sw with counter := 0, currentPressLength := 0, lastPressLength := 0, waitingForRelease := true }
      res := 0, trace := [] } := ⟨rfl, rfl, rfl, rfl, rfl⟩
  obtain ⟨u, hrun, hu, husw⟩ := runOps_swSample_waiting hreset rfl m hlevel
  obtain ⟨t, hexec, ht, htsw⟩ := exec_swSample_idle hu hreleased (by rw [husw]; rfl)
  refine ⟨u, t, (runOps_cons_next _ _ _ _ (exec_swResetPressState s)).trans hrun, hu.db, husw, hexec, ht.db, ?_⟩
  rw [htsw, husw]
  rfl

end Sys2Proof.Proofs
end
